-- ==== Sys2Proof/Word.lean ====
section
/-!
DEFINITION. The word types of the block: the widths are 00_scope.md R7's fixed constants COLOR_W, NIBBLE_W and PIXEL_W.
-/
namespace Sys2Proof

/-- A 2-bit colour index (R7, COLOR_W). -/
abbrev Colour := BitVec 2

/-- A 4-bit encoding element of the output (R7, NIBBLE_W). -/
abbrev Nibble := BitVec 4

/-- An 8-bit pixel sample or output byte (R7, PIXEL_W). -/
abbrev Byte := BitVec 8

end Sys2Proof
end

