-- ==== Sys2Proof/Config.lean ====
section
/-!
DEFINITION. What an implementation fixes (00_scope.md R8) and the free values: constants without a body, of which
nothing can be proved.
-/
namespace Sys2Proof

/-- COLOR_COMPARE (R8, R121): what run detection compares, the low 2 bits or all 8. -/
inductive ColorCompare where
  | masked
  | raw
  deriving DecidableEq, Repr, Inhabited

/-- The sink's answer to one offered byte (R53). -/
inductive SinkAnswer where
  | accept
  | reject
  deriving DecidableEq, Repr, Inhabited

/-- The open parameters of R8. `LEN_W` may be any integer from 1 and `DIM_W` any integer from 2, so each is stored as
its distance from that least value: every value of the structure is a legal parameter set. -/
structure Params where
  lenWLessOne  : Nat
  dimWLessTwo  : Nat
  arrLen       : Nat
  colorCompare : ColorCompare
  deriving DecidableEq, Repr, Inhabited

/-- LEN_W, the width of DLEN and SP (R8). -/
def Params.lenW (p : Params) : Nat := p.lenWLessOne + 1

/-- DIM_W, the width of CFG_WIDTH and CFG_HEIGHT (R8). -/
def Params.dimW (p : Params) : Nat := p.dimWLessTwo + 2

/-- The parameter set with these widths (LEN_W from 1, DIM_W from 2), pixel memory size and comparison. -/
def Params.of (lenW dimW arrLen : Nat) (cmp : ColorCompare) : Params :=
  { lenWLessOne := lenW - 1, dimWLessTwo := dimW - 2, arrLen := arrLen, colorCompare := cmp }

/-- DESIGN CHOICE (log 1): the parameters of the machine that `State.reset` describes. The spec leaves each open
(R8), so nothing can be proved of them. -/
opaque Config.params : Params

/-- DESIGN CHOICE (log 4): the sink's answer to its `n`-th byte where the launch does not fix it. The spec makes each
answer a free draw (93 I5), so nothing can be proved of it. -/
opaque Config.sinkAnswer : Nat → SinkAnswer

end Sys2Proof
end

