-- ==== Sys2Proof/Syntax.lean ====
section
/-!
DEFINITION. The rows of spec/opcode_table.json: the five unit forms the block emits, its four atomic operations, and the
three sub-operations of STEP.
-/
namespace Sys2Proof

/-- One constructor per row of the opcode table. -/
inductive Instr where
  /-- SHORT1 (R141): one pixel of colour `c`. -/
  | short1 (c : Colour)
  /-- SHORT2 (R142): two pixels of colour `c`. -/
  | short2 (c : Colour)
  /-- SHORT3 (R143): three pixels of colour `c`. -/
  | short3 (c : Colour)
  /-- ESCLIT (R144): `v` pixels of colour `c`, `v` in 7..15. -/
  | esclit (c : Colour) (v : Nibble)
  /-- ESCPOW (R145): `16 << k` pixels of colour `c`, `k` in 0..6. -/
  | escpow (c : Colour) (k : Nibble)
  /-- RESET (R230). -/
  | reset
  /-- START (R102); its operands are the ports CFG_WIDTH and CFG_HEIGHT. -/
  | start
  /-- STEP (R103): one pass of detection, classification, emission and advance. -/
  | step
  /-- FINALIZE (R172). -/
  | finalize
  /-- DETECT (R120) at the scan position. -/
  | detect
  /-- CLASSIFY (R140) of a run of `len` pixels of colour `c`. -/
  | classify (c : Colour) (len : Nat)
  /-- EMIT_NIBBLE (R170) of the nibble `u`. -/
  | emitNibble (u : Nibble)
  deriving DecidableEq, Repr

/-- The unit forms of R70, which have an encoding in the output stream; the other rows are operations (R85). -/
def Instr.isUnit : Instr → Bool
  | .short1 _ => true
  | .short2 _ => true
  | .short3 _ => true
  | .esclit _ _ => true
  | .escpow _ _ => true
  | .reset => false
  | .start => false
  | .step => false
  | .finalize => false
  | .detect => false
  | .classify _ _ => false
  | .emitNibble _ => false

end Sys2Proof
end

