-- ==== Sys2Proof/Machine/State.lean ====
section
/-!
DEFINITION. The state of the block (10_state.md R20), the inputs and parameters a launch fixes (R29, R8), the reasons a step
can stop, and the state after reset (R37). All plain data.
-/
namespace Sys2Proof.Machine

/-- PHASE, the control phase (R21). -/
inductive Phase where
  | idle
  | running
  | done
  | error
  deriving DecidableEq, Repr

/-- ERR, the latched error code (R22). -/
inductive ErrCode where
  | none
  | invalidDimensions
  | emptyInput
  | outputWriteFailure
  deriving DecidableEq, Repr

/-- What DETECT returns (R120): the run's colour and its detected length, not capped. -/
structure Run where
  colour : Colour
  length : Nat
  deriving DecidableEq, Repr

/-- The levels the host drives at the block's input ports while one step is taken (R29). A dimension is given by any
number; the port carries its low DIM_W bits (log 15). -/
structure Drive where
  rst       : Bool
  cmd       : BitVec 2
  cfgWidth  : Nat
  cfgHeight : Nat
  deriving DecidableEq, Repr

/-- The quiet host: RST = 0 and CMD = NONE, as R107 has it after START. The dimensions are then read by nothing. -/
def Drive.idle : Drive := { rst := false, cmd := 0#2, cfgWidth := 0, cfgHeight := 0 }

/-- The pixel memory PIX (R35): cells with rising indices, none of them holding what an unlisted index reads as. -/
abbrev Memory := List Host.Cell

/-- Why the machine stops with a fault. The block's own errors (R200 to R202) are no faults: they are states with
PHASE = ERROR. -/
inductive Fault where
  /-- DETECT reads an index that PIX does not have (raised by `State.pixRead`; R50, R56). Safe: the machine stops, and no
  state that satisfies the invariants of R24 gets here. -/
  | pixelOutsideMemory (index : Nat)
  deriving DecidableEq, Repr

/-- Why the machine gives no meaning. -/
inductive Refusal where
  /-- An instruction without a meaning yet (raised by `exec` only). Safe. -/
  | notModelled (mnemonic : String)
  /-- CMD is 10 or 11, in any phase (raised by `step`; R105 a). Safe: no claim holds of such a launch. -/
  | reservedCommand (cmd : BitVec 2)
  /-- START while PHASE is not IDLE (raised by `step` and by START's meaning; R105 b). Safe, as above. -/
  | startOutsideIdle (phase : Phase)
  /-- DETECT by itself with SP >= DLEN, which R120 asserts away (raised by DETECT's meaning; log 16). Safe. -/
  | noPixelLeft
  /-- CLASSIFY of a run of length 0, which R140 asserts away (raised by CLASSIFY's meaning; log 16). Safe. -/
  | emptyRun
  deriving DecidableEq, Repr

/-- What the operation selector of R100 chooses. -/
inductive Selection where
  /-- The one enabled operation. -/
  | operation (i : Instr)
  /-- No operation is enabled (R100 item 6). -/
  | wait
  /-- The command is refused (R105). -/
  | refuse (r : Refusal)
  deriving DecidableEq, Repr

/-- The machine. -/
structure State where
  -- The architectural record of R20.
  phase      : Phase
  err        : ErrCode
  dlen       : Nat
  sp         : Nat
  nibValid   : Bool
  nibHold    : Nibble
  out        : List Byte
  -- The launch: parameters (R8), pixel memory, the host's coming port levels, the sink's coming answers (R29).
  cfg        : Params
  pix        : Memory
  host       : List Drive
  sink       : List SinkAnswer
  -- The model's own: how many bytes the sink was offered (log 4), and what DETECT and CLASSIFY, run by themselves, last
  -- returned (log 8).
  draws      : Nat
  detected   : Option Run
  classified : Option Instr
  deriving DecidableEq, Repr

/-- The state after reset (R37) of a block with these parameters. The inputs have no reset value (R37): the host is quiet
(log 3), PIX lists nothing (log 2), and no sink answer is fixed (log 4). -/
def State.powerUp (p : Params) : State :=
  { phase := .idle, err := .none, dlen := 0, sp := 0, nibValid := false, nibHold := 0#4, out := [],
    cfg := p, pix := [], host := [], sink := [], draws := 0, detected := none, classified := none }

/-- The machine right after reset (R37), which power-up is taken to be (R232 item 1), with parameters of which nothing is
known (log 1). -/
def State.reset : State := State.powerUp Config.params

end Sys2Proof.Machine
end

