-- ==== Sys2Proof/Machine/Flags.lean ====
section
/-!
DEFINITION. The status registers (10_state.md R27) as the host reads them: the codes of PHASE and ERR.
-/
namespace Sys2Proof.Machine

/-- The code of a phase on the status output (R21). -/
def Phase.code : Phase → BitVec 2
  | .idle => 0#2
  | .running => 1#2
  | .done => 2#2
  | .error => 3#2

/-- The code of an error on the status output (R22). -/
def ErrCode.code : ErrCode → BitVec 2
  | .none => 0#2
  | .invalidDimensions => 1#2
  | .emptyInput => 2#2
  | .outputWriteFailure => 3#2

/-- The status the host sees: PHASE and ERR, level outputs (R33, R206). -/
def State.status (s : State) : BitVec 2 × BitVec 2 := (s.phase.code, s.err.code)

end Sys2Proof.Machine
end

