-- ==== Sys2Proof/WellFormed.lean ====
section
/-!
DEFINITION. Which instructions the spec gives a meaning: the operand ranges of 30_encoding.md R74 and the assertion of
42_classification.md R140.
-/
namespace Sys2Proof

/-- ESCLIT's `v` is 7..15 and ESCPOW's `k` is 0..6 (R74), and CLASSIFY asserts `len >= 1` (R140); every other operand
may take every value of its type. -/
def Instr.wellFormed : Instr → Bool
  | .short1 _ => true
  | .short2 _ => true
  | .short3 _ => true
  | .esclit _ v => decide (7 ≤ v.toNat)
  | .escpow _ k => decide (k.toNat ≤ 6)
  | .reset => true
  | .start => true
  | .step => true
  | .finalize => true
  | .detect => true
  | .classify _ len => decide (1 ≤ len)
  | .emitNibble _ => true

end Sys2Proof
end

