-- ==== Sys2Proof/Decode.lean ====
section
/-!
DEFINITION. The two encodings of 30_encoding.md: the unit format of the output stream (decoder, encoder, and R81's meaning
of a byte stream) and the command port (R84); then the host's word for a row of the opcode table.
-/
namespace Sys2Proof

/-- Why a stream of nibbles is no stream of units. -/
inductive DecodeError where
  /-- There is no nibble where a unit should start. Safe: nothing is read. -/
  | endOfStream
  /-- The stream ends after the escape nibble `u`, which is not the padding (R80 item 2; 93 I10). Safe: the spec defines
  decoding only for the block's own output. -/
  | loneEscape (u : Nibble)
  deriving DecidableEq, Repr

/-- What a value of the command port asks for (R84). -/
inductive Command where
  | none
  | start
  | reserved (code : BitVec 2)
  deriving DecidableEq, Repr

/-- The command port's codes (R84): 00 NONE, 01 START, 10 and 11 reserved. -/
def decodeCommand (cmd : BitVec 2) : Command :=
  if cmd = 0#2 then .none else if cmd = 1#2 then .start else .reserved cmd

/-- The count field `u[3:2]` of a unit's first nibble (R71). -/
def nibbleCount (u : Nibble) : BitVec 2 := u.extractLsb' 2 2

/-- The colour field `u[1:0]` of a unit's first nibble (R71). -/
def nibbleColour (u : Nibble) : Colour := u.extractLsb' 0 2

/-- The short form a first nibble stands for, if its count field is not 0 (R72, R77). -/
def shortUnit (u : Nibble) : Option Instr :=
  if nibbleCount u = 1#2 then some (.short1 (nibbleColour u))
  else if nibbleCount u = 2#2 then some (.short2 (nibbleColour u))
  else if nibbleCount u = 3#2 then some (.short3 (nibbleColour u))
  else none

/-- The escape form of an escape nibble `u` and its second nibble `v` (R74, R78). -/
def escapeUnit (u v : Nibble) : Instr :=
  if 7 ≤ v.toNat then .esclit (nibbleColour u) v else .escpow (nibbleColour u) v

/-- Reads one unit from the front of a nibble stream; the first nibble alone decides its length (R75). -/
def decodeUnit : List Nibble → Except DecodeError (Instr × List Nibble)
  | [] => .error .endOfStream
  | u :: rest =>
    match shortUnit u with
    | some i => .ok (i, rest)
    | none =>
      match rest with
      | [] => .error (.loneEscape u)
      | v :: rest' => .ok (escapeUnit u v, rest')

/-- Puts a unit before the units of the rest of a stream. -/
def consUnit (i : Instr) : Except DecodeError (List Instr) → Except DecodeError (List Instr)
  | .ok is => .ok (i :: is)
  | .error e => .error e

/-- All the units of a nibble stream. With `pad`, a lone last nibble 0 is R80's padding; every other lone escape nibble
is refused. -/
def decodeUnits (pad : Bool) : List Nibble → Except DecodeError (List Instr)
  | [] => .ok []
  | [u] =>
    match shortUnit u with
    | some i => .ok [i]
    | none => if pad = true ∧ u = 0#4 then .ok [] else .error (.loneEscape u)
  | u :: v :: rest =>
    match shortUnit u with
    | some i => consUnit i (decodeUnits pad (v :: rest))
    | none => consUnit (escapeUnit u v) (decodeUnits pad rest)

/-- The number of pixels a unit encodes (R76, R140): its consumed length `n`. -/
def Instr.pixels : Instr → Nat
  | .short1 _ => 1
  | .short2 _ => 2
  | .short3 _ => 3
  | .esclit _ v => v.toNat
  | .escpow _ k => 16 <<< k.toNat
  | .reset => 0
  | .start => 0
  | .step => 0
  | .finalize => 0
  | .detect => 0
  | .classify _ _ => 0
  | .emitNibble _ => 0

/-- The colour a unit carries (R76). -/
def Instr.colour : Instr → Colour
  | .short1 c => c
  | .short2 c => c
  | .short3 c => c
  | .esclit c _ => c
  | .escpow c _ => c
  | .reset => 0#2
  | .start => 0#2
  | .step => 0#2
  | .finalize => 0#2
  | .detect => 0#2
  | .classify c _ => c
  | .emitNibble _ => 0#2

/-- The pixels a unit stands for, in order (R81). -/
def unitColours (i : Instr) : List Colour := List.replicate i.pixels i.colour

/-- The two nibbles of a byte in stream order, the high half first (R52). -/
def byteNibbles (b : Byte) : List Nibble := [b.extractLsb' 4 4, b.extractLsb' 0 4]

/-- R81's `decode(bytes)`: the colours a byte stream stands for. The stream's nibble count is even, so a lone last nibble
is at an odd index, as R81 asserts of the padding. -/
def decodeStream (bytes : List Byte) : Except DecodeError (List Colour) :=
  match decodeUnits true (bytes.flatMap byteNibbles) with
  | .ok is => .ok (is.flatMap unitColours)
  | .error e => .error e

/-- The nibbles of a unit in stream order (R79). The operations have no encoding in the stream (R85). -/
def encode : Instr → List Nibble
  | .short1 c => [c.setWidth 4 ||| (1#4 <<< 2)]
  | .short2 c => [c.setWidth 4 ||| (2#4 <<< 2)]
  | .short3 c => [c.setWidth 4 ||| (3#4 <<< 2)]
  | .esclit c v => [c.setWidth 4, v]
  | .escpow c k => [c.setWidth 4, k]
  | .reset => []
  | .start => []
  | .step => []
  | .finalize => []
  | .detect => []
  | .classify _ _ => []
  | .emitNibble _ => []

/-- The nibbles of a word of the opcode table, in stream order. The table numbers a one-nibble row's word by bits 3..0 and
a two-nibble row's by bits 7..0, first nibble in bits 7..4. DESIGN CHOICE (log 13): a word of eight bits below 16 whose bits
3..2 are not 0 is taken as a one-nibble row's. -/
def tableNibbles (nbits w : Nat) : List Nibble :=
  if nbits ≤ 4 ∨ (4 ≤ w ∧ w < 16) then [BitVec.ofNat 4 w]
  else [BitVec.ofNat 4 (w / 16), BitVec.ofNat 4 w]

/-- The unit the decoder reads from an opcode-table word. -/
def decodeTableWord (nbits w : Nat) : Option Instr :=
  match decodeUnit (tableNibbles nbits w) with
  | .ok (i, _) => some i
  | .error _ => none

end Sys2Proof
end

