-- ==== Sys2Proof/Machine/Operands.lean ====
section
/-!
DEFINITION. The operand forms: a port's signed dimension, a pixel's colour and comparison key, the byte two nibbles make.
-/
namespace Sys2Proof.Machine

/-- The signed value of a dimension port: DIM_W bits, two's complement (R10, R102). -/
def dimension (p : Params) (raw : Nat) : Int := (BitVec.ofNat p.dimW raw).toInt

/-- The colour of a pixel, `x & 3` (R51). -/
def pixelColour (x : Byte) : Colour := x.extractLsb' 0 2

/-- What run detection compares of a pixel (R120, R121). -/
def pixelKey (cmp : ColorCompare) (x : Byte) : Byte :=
  match cmp with
  | .masked => x &&& 3#8
  | .raw => x

/-- A completed byte: the earlier nibble high, the later low (R171). -/
def packByte (hi lo : Nibble) : Byte := (hi.setWidth 8 <<< 4) ||| lo.setWidth 8

end Sys2Proof.Machine
end

