-- ==== Sys2Proof/Machine/Ops.lean ====
section
/-!
DEFINITION. The named operations over the pixel memory, the ports and the registers, and `raise Error`.
-/
namespace Sys2Proof.Machine

/-! The pixel memory. -/

/-- What an unlisted index of PIX holds. DESIGN CHOICE (log 2). -/
def Memory.unlisted : Byte := 0#8

/-- The byte at an index. -/
def Memory.read : Memory → Nat → Byte
  | [], _ => Memory.unlisted
  | (a, x) :: m, i => if i = a then x else Memory.read m i

/-- Sets the byte at an index, keeping the canonical form: the host's load of PIX (R232 item 2). No operation of the block
writes PIX (R35). -/
def Memory.write : Memory → Nat → Byte → Memory
  | [], i, b => if b = Memory.unlisted then [] else [(i, b)]
  | (a, x) :: m, i, b =>
    if i < a then (if b = Memory.unlisted then (a, x) :: m else (i, b) :: (a, x) :: m)
    else if i = a then (if b = Memory.unlisted then m else (i, b) :: m)
    else (a, x) :: Memory.write m i b

/-- The canonical form: indices strictly rising, and no cell that holds what an unlisted index reads as. -/
abbrev Memory.wf (m : Memory) : Prop :=
  m.Pairwise (fun p q => p.1 < q.1) ∧ ∀ p ∈ m, p.2 ≠ Memory.unlisted

/-- Sets indices 0 to n - 1 to one byte. -/
def Memory.fill (b : Byte) : Nat → Memory → Memory
  | 0, m => m
  | n + 1, m => Memory.write (Memory.fill b n m) n b

/-- Loads a pixel sequence at the indices from `i` on (R232 item 2). -/
def Memory.load : List Byte → Nat → Memory → Memory
  | [], _, m => m
  | b :: bs, i, m => Memory.load bs (i + 1) (Memory.write m i b)

/-- PixRead (R50). PIX has the indices below ARR_LEN (R56); there is no element elsewhere (log 11). -/
def State.pixRead (s : State) (i : Nat) : Except Fault Byte :=
  if i < s.cfg.arrLen then .ok (Memory.read s.pix i) else .error (.pixelOutsideMemory i)

/-! The input ports. -/

/-- The levels at the input ports in this step (R29). -/
def State.ports (s : State) : Drive := s.host.headD Drive.idle

/-- The host's levels move on, once per step. -/
def State.advanceHost (s : State) : State := { s with host := s.host.tail }

/-! The sink (R53). -/

/-- The answer the sink gives to the next byte: the launch's, or a free one (log 4). -/
def State.sinkAnswer (s : State) : SinkAnswer := s.sink.headD (Config.sinkAnswer s.draws)

/-- The sink has been offered one byte more. -/
def State.takeAnswer (s : State) : State := { s with sink := s.sink.tail, draws := s.draws + 1 }

/-- Appends an accepted byte to the output log (R28). -/
def State.appendOut (s : State) (b : Byte) : State := { s with out := s.out ++ [b] }

/-- SinkWrite (R53): the answer, and the state after it. OUT grows on Accept and is unchanged on Reject; there is no retry
and no wait. -/
def State.sinkWrite (s : State) (b : Byte) : SinkAnswer × State :=
  match s.sinkAnswer with
  | .accept => (.accept, s.takeAnswer.appendOut b)
  | .reject => (.reject, s.takeAnswer)

/-! The registers. -/

/-- The nibble buffer holds one nibble (R25, R26). -/
def State.holdNibble (s : State) (u : Nibble) : State := { s with nibValid := true, nibHold := u }

/-- The nibble buffer is empty; NIB_HOLD is then 0 (R26). -/
def State.clearNibble (s : State) : State := { s with nibValid := false, nibHold := 0#4 }

/-- `SP <- SP + n` (R146). -/
def State.advance (s : State) (n : Nat) : State := { s with sp := s.sp + n }

/-- `PHASE <- p`. -/
def State.setPhase (s : State) (p : Phase) : State := { s with phase := p }

/-- The registers START writes on success (R102). -/
def State.beginRun (s : State) (dlen : Nat) : State :=
  { s with phase := .running, err := .none, dlen := dlen, sp := 0, nibValid := false, nibHold := 0#4, out := [] }

/-- Every register at its reset value (R37, R230). -/
def State.resetRegs (s : State) : State :=
  { s with phase := .idle, err := .none, dlen := 0, sp := 0, nibValid := false, nibHold := 0#4, out := [] }

/-- What DETECT, run by itself, returns (log 8). -/
def State.setDetected (s : State) (r : Run) : State := { s with detected := some r }

/-- What CLASSIFY, run by itself, returns (log 8). -/
def State.setClassified (s : State) (u : Instr) : State := { s with classified := some u }

/-- `raise Error(code)` (R203): the operation that began in `start` and stopped in `now` leaves PHASE = ERROR and the code,
and every other register as it was in `start`; only the sink remembers that it was asked. There is no return from an error:
RESET alone leaves the phase (R205). -/
def State.raiseError (start now : State) (code : ErrCode) : State :=
  { start with phase := .error, err := code, sink := now.sink, draws := now.draws }

/-! Launches. -/

/-- A launch (R107, R232): the reset state of a block with these parameters, this pixel sequence loaded from index 0, this
host schedule and these sink answers. -/
def State.launch (p : Params) (pixels : List Byte) (host : List Drive) (sink : List SinkAnswer) : State :=
  { State.powerUp p with pix := Memory.load pixels 0 [], host := host, sink := sink }

/-- The host's next levels without a reset and without a command. -/
def quietHead : List Drive → List Drive
  | [] => []
  | d :: ds => { d with rst := false, cmd := 0#2 } :: ds

/-- The coming sink answers, with one Accept where the launch fixes none. -/
def firstAnswer : List SinkAnswer → List SinkAnswer
  | [] => [.accept]
  | a :: as => a :: as

/-- The state in which the block's next operation is the STEP that emits unit `u`: a run whose pixel sequence is the unit's
pixels and nothing else, at its first pixel, with the default parameters and sink of 95_test_vectors.md (log 14). -/
def State.placeUnit (s : State) (u : Instr) : State :=
  { s with
    phase := .running, err := .none, dlen := u.pixels, sp := 0,
    cfg := Params.of 16 16 u.pixels .masked,
    pix := Memory.fill (u.colour.setWidth 8) u.pixels s.pix,
    host := quietHead s.host,
    sink := firstAnswer s.sink }

end Sys2Proof.Machine
end

