-- ==== Sys2Proof/Machine/Classification.lean ====
section
/-!
DEFINITION. Length classification (42_classification.md R140): the function CLASSIFY and its meaning as an instruction.
-/
namespace Sys2Proof.Machine

/-- The size class of a long run: the largest `k <= 6` with `16 << k <= len` (R145), searched from `k` downwards. -/
def sizeClassFrom (len : Nat) : Nat → Nat
  | 0 => 0
  | k + 1 => if 16 <<< (k + 1) ≤ len then k + 1 else sizeClassFrom len k

/-- The size class of a run of `len >= 16` pixels (R145). -/
def sizeClass (len : Nat) : Nat := sizeClassFrom len 6

/-- CLASSIFY(c, len) (R140): the unit form; its consumed length is `Instr.pixels` of it and its nibbles are `encode` of it.
R140 asserts `len >= 1`. -/
def classify (c : Colour) (len : Nat) : Instr :=
  if len < 7 then
    (if min len 3 ≤ 1 then .short1 c else if min len 3 = 2 then .short2 c else .short3 c)
  else if len < 16 then .esclit c (BitVec.ofNat 4 len)
  else .escpow c (BitVec.ofNat 4 (sizeClass len))

/-- CLASSIFY by itself: a pure function, so no register changes (R140); the unit it returns is kept for the reader
(log 8). It runs in every phase (log 20). -/
def execClassify (c : Colour) (len : Nat) (s : State) : Host.Outcome State Fault Refusal :=
  if 1 ≤ len then .next (s.setClassified (classify c len)) else .refused .emptyRun

end Sys2Proof.Machine
end

