-- ==== Sys2Proof/Machine/Detection.lean ====
section
/-!
DEFINITION. Run detection (41_run_detection.md): the function DETECT and its meaning as an instruction.
-/
namespace Sys2Proof.Machine

/-- How many of the at most `fuel` pixels from index `i` on continue a run whose first pixel is `r` (R120's loop). -/
def State.matching (s : State) (r : Byte) : Nat → Nat → Except Fault Nat
  | 0, _ => .ok 0
  | fuel + 1, i =>
    match s.pixRead i with
    | .error f => .error f
    | .ok x =>
      if pixelKey s.cfg.colorCompare x = pixelKey s.cfg.colorCompare r then
        match State.matching s r fuel (i + 1) with
        | .error f => .error f
        | .ok n => .ok (n + 1)
      else .ok 0

/-- DETECT(SP) (R120): the run's masked colour and its length, which is not capped (R122) and stops at DLEN. -/
def State.detect (s : State) : Except Fault Run :=
  match s.pixRead s.sp with
  | .error f => .error f
  | .ok r =>
    match s.matching r (s.dlen - s.sp - 1) (s.sp + 1) with
    | .error f => .error f
    | .ok n => .ok { colour := pixelColour r, length := n + 1 }

/-- DETECT by itself: it writes no register (R120); the run it returns is kept for the reader (log 8).
It runs in every phase (log 20). -/
def execDetect (s : State) : Host.Outcome State Fault Refusal :=
  if s.sp < s.dlen then
    match s.detect with
    | .error f => .fault f
    | .ok r => .next (s.setDetected r)
  else .refused .noPixelLeft

end Sys2Proof.Machine
end

