-- ==== Sys2Proof/Machine/Packing.lean ====
section
/-!
DEFINITION. Nibble packing (43_nibble_packing.md): the function `emit`, the emission of a unit's nibbles, and EMIT_NIBBLE's
meaning.
-/
namespace Sys2Proof.Machine

/-- `emit(u)` (R170). `.error` is the rejected write, in the state it leaves before `raise Error` puts the registers back. -/
def State.emit (s : State) (u : Nibble) : Except State State :=
  if s.nibValid then
    match s.sinkWrite (packByte s.nibHold u) with
    | (.accept, t) => .ok t.clearNibble
    | (.reject, t) => .error t
  else .ok (s.holdNibble u)

/-- `emit` of a unit's nibbles, first nibble first (R103). -/
def State.emitAll (s : State) : List Nibble → Except State State
  | [] => .ok s
  | u :: us =>
    match s.emit u with
    | .ok t => State.emitAll t us
    | .error t => .error t

/-- EMIT_NIBBLE (R170): a rejected byte raises OUTPUT_WRITE_FAILURE (R202). DESIGN CHOICE (log 20): run by itself it fires
in every phase; the spec has it only as a function that STEP applies (R101), and `step` runs it only there. -/
def execEmitNibble (u : Nibble) (s : State) : Host.Outcome State Fault Refusal :=
  match s.emit u with
  | .ok t => .next t
  | .error t => .next (s.raiseError t .outputWriteFailure)

end Sys2Proof.Machine
end

