-- ==== Sys2Proof/Machine/Units.lean ====
section
/-!
DEFINITION. The unit forms (42_classification.md R141 to R146): which unit a state selects, what a unit does when it is
selected, and the five meanings.
-/
namespace Sys2Proof.Machine

/-- STEP's enabling condition (R100 item 4). -/
abbrev State.stepEnabled (s : State) : Prop := s.phase = .running ∧ s.sp < s.dlen

/-- The unit that STEP emits in this state: CLASSIFY of what DETECT returns (R103). None where STEP is not enabled. -/
def State.selectedUnit (s : State) : Except Fault (Option Instr) :=
  if s.stepEnabled then
    match s.detect with
    | .error f => .error f
    | .ok r => .ok (some (classify r.colour r.length))
  else .ok none

/-- A unit's share of a STEP: its nibbles are emitted, then SP advances by its pixels (R103, R146); a rejected byte raises
OUTPUT_WRITE_FAILURE and undoes the STEP (R202, R203). -/
def State.runUnit (s : State) (u : Instr) : State :=
  match s.emitAll (encode u) with
  | .ok t => t.advance u.pixels
  | .error t => s.raiseError t .outputWriteFailure

/-- A unit is emitted where the state selects it, and nowhere else: elsewhere it does not fire and nothing changes
(log 7). RST and CMD are not read (log 21). -/
def State.fireUnit (s : State) (u : Instr) : Host.Outcome State Fault Refusal :=
  match s.selectedUnit with
  | .error f => .fault f
  | .ok none => .next s
  | .ok (some v) => if v = u then .next (s.runUnit u) else .next s

/-- SHORT1 (R141). -/
def execShort1 (c : Colour) (s : State) : Host.Outcome State Fault Refusal := s.fireUnit (.short1 c)

/-- SHORT2 (R142). -/
def execShort2 (c : Colour) (s : State) : Host.Outcome State Fault Refusal := s.fireUnit (.short2 c)

/-- SHORT3 (R143). -/
def execShort3 (c : Colour) (s : State) : Host.Outcome State Fault Refusal := s.fireUnit (.short3 c)

/-- ESCLIT (R144). -/
def execEsclit (c : Colour) (v : Nibble) (s : State) : Host.Outcome State Fault Refusal := s.fireUnit (.esclit c v)

/-- ESCPOW (R145). -/
def execEscpow (c : Colour) (k : Nibble) (s : State) : Host.Outcome State Fault Refusal := s.fireUnit (.escpow c k)

end Sys2Proof.Machine
end

