-- ==== Sys2Proof/Machine/Control.lean ====
section
/-!
DEFINITION. The control operations (40_control.md, R172, R230): the operation selector, RESET, START, STEP and FINALIZE.
-/
namespace Sys2Proof.Machine

/-- FINALIZE's enabling condition (R100 item 5). -/
abbrev State.finalizeEnabled (s : State) : Prop := s.phase = .running ∧ s.sp = s.dlen

/-- The operation selector (R100), with the refusals of R105. RST comes first, before any command (log 9). -/
def State.select (s : State) : Selection :=
  if s.ports.rst then .operation .reset
  else
    match decodeCommand s.ports.cmd with
    | .reserved c => .refuse (.reservedCommand c)
    | .start => if s.phase = .idle then .operation .start else .refuse (.startOutsideIdle s.phase)
    | .none =>
      if s.stepEnabled then .operation .step
      else if s.finalizeEnabled then .operation .finalize
      else .wait

/-- RESET (R230): every register to its reset value; no write, so a pending nibble is dropped. DESIGN CHOICE (log 21):
applied by itself it does not read RST; `step` applies it only where RST = 1. -/
def execReset (s : State) : Host.Outcome State Fault Refusal := .next s.resetRegs

/-- START's checks and effect in the IDLE phase (R102), the checks in the order of R204, for the dimensions `w` and `h`. -/
def State.start (s : State) (w h : Int) : State :=
  if w = 0 ∨ h = 0 then s.raiseError s .emptyInput
  else if w < 0 ∨ h < 0 then s.raiseError s .invalidDimensions
  else if (2 : Int) ^ s.cfg.lenW - 1 < w * h then s.raiseError s .invalidDimensions
  else if (s.cfg.arrLen : Int) < w * h then s.raiseError s .invalidDimensions
  else s.beginRun (w * h).toNat

/-- START (R102) with the dimensions at the ports; refused outside IDLE (R105 b). DESIGN CHOICE (log 21): applied by itself
it reads neither RST nor CMD; `step` applies it only where RST = 0 and CMD = START. -/
def execStart (s : State) : Host.Outcome State Fault Refusal :=
  if s.phase = .idle then
    .next (s.start (dimension s.cfg s.ports.cfgWidth) (dimension s.cfg s.ports.cfgHeight))
  else .refused (.startOutsideIdle s.phase)

/-- STEP (R103): the unit that CLASSIFY gives for the run that DETECT finds. Where PHASE, SP and DLEN do not enable it,
it does not fire (R100, log 7). Applied by itself it reads neither RST nor CMD (log 21). -/
def execStep (s : State) : Host.Outcome State Fault Refusal :=
  match s.selectedUnit with
  | .error f => .fault f
  | .ok none => .next s
  | .ok (some u) => .next (s.runUnit u)

/-- FINALIZE's effect (R172): a pending nibble goes out with a zero low half; then DONE. -/
def State.finalize (s : State) : State :=
  if s.nibValid then
    match s.sinkWrite (packByte s.nibHold 0#4) with
    | (.accept, t) => t.clearNibble.setPhase .done
    | (.reject, t) => s.raiseError t .outputWriteFailure
  else s.setPhase .done

/-- FINALIZE (R172). Where PHASE, SP and DLEN do not enable it, it does not fire (R100, log 7). Applied by itself it reads
neither RST nor CMD (log 21). -/
def execFinalize (s : State) : Host.Outcome State Fault Refusal :=
  if s.finalizeEnabled then .next s.finalize else .next s

/-- After an operation, the host's levels move on. -/
def moveOn : Host.Outcome State Fault Refusal → Host.Outcome State Fault Refusal
  | .next t => .next t.advanceHost
  | .fault f => .fault f
  | .refused r => .refused r

end Sys2Proof.Machine
end

