-- ==== Sys2Proof/Machine/Dispatch.lean ====
section
/-!
DEFINITION. One arm per row of the opcode table.
-/
namespace Sys2Proof.Machine

def exec (i : Instr) (s : State) : Host.Outcome State Fault Refusal :=
  match i with
  | .short1 c => Sys2Proof.Machine.execShort1 c s
  | .short2 c => Sys2Proof.Machine.execShort2 c s
  | .short3 c => Sys2Proof.Machine.execShort3 c s
  | .esclit c v => Sys2Proof.Machine.execEsclit c v s
  | .escpow c k => Sys2Proof.Machine.execEscpow c k s
  | .reset => Sys2Proof.Machine.execReset s
  | .start => Sys2Proof.Machine.execStart s
  | .step => Sys2Proof.Machine.execStep s
  | .finalize => Sys2Proof.Machine.execFinalize s
  | .detect => Sys2Proof.Machine.execDetect s
  | .classify c len => Sys2Proof.Machine.execClassify c len s
  | .emitNibble u => Sys2Proof.Machine.execEmitNibble u s

end Sys2Proof.Machine
end

