-- ==== Sys2Proof/Machine/Step.lean ====
section
/-!
DEFINITION. One step of the machine (40_control.md R100, R101), and the host's way to have a unit emitted next.
-/
namespace Sys2Proof.Machine

/-- One step: the operation the selector chooses, whole (R101); where none is enabled, nothing but the host's levels moves
(R100 item 6); a refused command ends the run (R105). -/
def step (s : State) : Host.Outcome State Fault Refusal :=
  match s.select with
  | .operation i => moveOn (exec i s)
  | .wait => .next s.advanceHost
  | .refuse r => .refused r

/-- The state in which the next step emits the unit of this opcode-table word (log 14); a word that stands for no unit
changes nothing. -/
def State.withFetchWord (s : State) (nbits w : Nat) : State :=
  match decodeTableWord nbits w with
  | some i => s.placeUnit i
  | none => s

end Sys2Proof.Machine
end

