-- ==== Sys2Proof/Safety.lean ====
section
/-!
DEFINITION. What counts as a sound state and a safe run, in the terms the claims use: the invariants of 10_state.md R34 and
R24, what the output so far stands for, and the unit listing of one run (42_classification.md R148).
-/
namespace Sys2Proof.Machine

/-- R34 items 1 to 6, R24's bounds, and the canonical form of the pixel memory. -/
structure State.Inv (s : State) : Prop where
  sp_le_dlen      : s.sp ≤ s.dlen
  empty_holds_0   : s.nibValid = false → s.nibHold = 0#4
  idle_is_reset   : s.phase = .idle → s.sp = 0 ∧ s.dlen = 0 ∧ s.nibValid = false ∧ s.out = [] ∧ s.err = .none
  run_has_pixels  : s.phase = .running ∨ s.phase = .done → s.err = .none ∧ 1 ≤ s.dlen
  done_is_flushed : s.phase = .done → s.sp = s.dlen ∧ s.nibValid = false
  error_iff       : s.phase = .error ↔ s.err ≠ .none
  dlen_in_memory  : s.dlen ≤ s.cfg.arrLen
  dlen_fits       : s.dlen ≤ 2 ^ s.cfg.lenW - 1
  pix_canonical   : Memory.wf s.pix

/-- The nibbles emitted so far, in order: those of OUT, then the pending one (R52, R36). -/
def State.nibbles (s : State) : List Nibble :=
  s.out.flatMap byteNibbles ++ (if s.nibValid then [s.nibHold] else [])

/-- The colours of the first `n` pixels (R51). -/
def State.colours (s : State) (n : Nat) : List Colour :=
  (List.range n).map fun i => pixelColour (Memory.read s.pix i)

/-- The units emitted so far stand for exactly the pixels scanned so far; in DONE, the byte stream stands for all of them
(R58 item 3, R177). -/
structure State.StreamInv (s : State) : Prop where
  emitted : s.phase ≠ .done →
    ∃ is, decodeUnits false s.nibbles = .ok is ∧ is.flatMap unitColours = s.colours s.sp
  complete : s.phase = .done → decodeStream s.out = .ok (s.colours s.dlen)

/-- The launch fixes at least `n` coming sink answers, each of them Accept. -/
def State.SinkAccepts (s : State) (n : Nat) : Prop := ∀ k < n, s.sink[k]? = some .accept

/-- The host is quiet from here on: RST = 0 and CMD = NONE in every coming step (R107). -/
abbrev State.quiet (s : State) : Prop := s.host = []

/-- The host asks for nothing in this step. -/
abbrev State.quietNow (s : State) : Prop := s.ports.rst = false ∧ s.ports.cmd = 0#2

/-- The state with another comparison mode (R121). -/
def State.withCompare (s : State) (m : ColorCompare) : State := { s with cfg := { s.cfg with colorCompare := m } }

/-- The registers of R20, and nothing else of the state. -/
def State.registers (s : State) : Phase × ErrCode × Nat × Nat × Bool × Nibble × List Byte :=
  (s.phase, s.err, s.dlen, s.sp, s.nibValid, s.nibHold, s.out)

/-- The units that CLASSIFY gives, pass by pass, for a run of `len` pixels bounded on both sides (R125, R146): each pass
classifies what is left. `fuel` bounds the number of passes. -/
def passUnits (c : Colour) : Nat → Nat → List Instr
  | 0, _ => []
  | fuel + 1, len =>
    if len = 0 then [] else classify c len :: passUnits c fuel (len - (classify c len).pixels)

/-- R148's last loop: short forms of at most 3 pixels. -/
def shortUnits (c : Colour) : Nat → List Instr
  | 0 => []
  | 1 => [.short1 c]
  | 2 => [.short2 c]
  | n + 3 => .short3 c :: shortUnits c n

/-- R148's listing of the units of a maximal run: power-of-two units while 16 pixels or more are left, then a literal unit
for 7 to 15, then short forms. -/
def runListing (c : Colour) : Nat → Nat → List Instr
  | 0, _ => []
  | fuel + 1, len =>
    if 1024 ≤ len then .escpow c 6#4 :: runListing c fuel (len - 1024)
    else if 512 ≤ len then .escpow c 5#4 :: runListing c fuel (len - 512)
    else if 256 ≤ len then .escpow c 4#4 :: runListing c fuel (len - 256)
    else if 128 ≤ len then .escpow c 3#4 :: runListing c fuel (len - 128)
    else if 64 ≤ len then .escpow c 2#4 :: runListing c fuel (len - 64)
    else if 32 ≤ len then .escpow c 1#4 :: runListing c fuel (len - 32)
    else if 16 ≤ len then .escpow c 0#4 :: runListing c fuel (len - 16)
    else if 7 ≤ len then [.esclit c (BitVec.ofNat 4 len)]
    else shortUnits c len

end Sys2Proof.Machine
end

