-- ==== Sys2Proof/Certificates/Slice0/Obligations.lean ====
section
/-!
DEFINITION. The statements for the provers. Each docstring names the rule of spec/ it formalises.
-/
open Sys2Proof Sys2Proof.Machine

/-! The unit format (30_encoding.md). -/

/-- R79 against R74, R75: decoding what the encoder gives for well-formed units gives the units back, one unit in front of
any rest, and a whole list of units, whether or not padding is allowed. -/
def Obligations.DecodeOfEncodedUnits : Prop :=
  (∀ (i : Instr) (rest : List Nibble), i.isUnit = true → i.wellFormed = true →
    decodeUnit (encode i ++ rest) = .ok (i, rest)) ∧
  (∀ (is : List Instr) (pad : Bool), (∀ i ∈ is, i.isUnit = true ∧ i.wellFormed = true) →
    decodeUnits pad (is.flatMap encode) = .ok is)

/-- The other direction: what the decoder reads is a well-formed unit, and what it consumed is that unit's encoding (R80: no
encoding is reserved, and each has one meaning). -/
def Obligations.DecodedUnitIsWhatWasEncoded : Prop :=
  ∀ (ns rest : List Nibble) (i : Instr), decodeUnit ns = .ok (i, rest) →
    i.isUnit = true ∧ i.wellFormed = true ∧ ns = encode i ++ rest

/-- R74, R77, R78: the map of the first nibble (form, colour, length of the unit) and of an escape's second nibble (form and
pixels). -/
def Obligations.NibbleMaps : Prop :=
  (∀ (c : Colour) (rest : List Nibble),
    decodeUnit ((0x4#4 + c.setWidth 4) :: rest) = .ok (.short1 c, rest) ∧
    decodeUnit ((0x8#4 + c.setWidth 4) :: rest) = .ok (.short2 c, rest) ∧
    decodeUnit ((0xC#4 + c.setWidth 4) :: rest) = .ok (.short3 c, rest)) ∧
  (∀ (c : Colour) (v : Nibble) (rest : List Nibble),
    (v.toNat ≤ 6 → decodeUnit (c.setWidth 4 :: v :: rest) = .ok (.escpow c v, rest) ∧
      (Instr.escpow c v).pixels = 16 * 2 ^ v.toNat) ∧
    (7 ≤ v.toNat → decodeUnit (c.setWidth 4 :: v :: rest) = .ok (.esclit c v, rest) ∧
      (Instr.esclit c v).pixels = v.toNat))

/-- A few words read by hand from R72, R73, R77 and R78. That a lone escape nibble is refused is the model's choice (log 18,
DESIGN CHOICE: R80 item 2 puts a decoder's treatment of such a stream outside the block). -/
def Obligations.UnitWordsDecode : Prop :=
  decodeUnit [0x6#4] = .ok (.short1 2#2, []) ∧
  decodeUnit [0xB#4, 0x1#4] = .ok (.short2 3#2, [0x1#4]) ∧
  decodeUnit [0xE#4] = .ok (.short3 2#2, []) ∧
  decodeUnit [0x1#4, 0xF#4] = .ok (.esclit 1#2 15#4, []) ∧
  decodeUnit [0x1#4, 0x0#4, 0x4#4] = .ok (.escpow 1#2 0#4, [0x4#4]) ∧
  decodeUnit [0x2#4] = .error (.loneEscape 2#4) ∧
  decodeStream [0x41#8, 0x00#8] = .ok (0#2 :: List.replicate 16 1#2)

/-- R21, R22, R84: the codes of PHASE and ERR on the status outputs, and the codes of the command port. -/
def Obligations.StatusAndCommandCodes : Prop :=
  (Phase.idle.code = 0#2 ∧ Phase.running.code = 1#2 ∧ Phase.done.code = 2#2 ∧ Phase.error.code = 3#2) ∧
  (ErrCode.none.code = 0#2 ∧ ErrCode.invalidDimensions.code = 1#2 ∧ ErrCode.emptyInput.code = 2#2 ∧
    ErrCode.outputWriteFailure.code = 3#2) ∧
  (decodeCommand 0#2 = .none ∧ decodeCommand 1#2 = .start ∧ decodeCommand 2#2 = .reserved 2#2 ∧
    decodeCommand 3#2 = .reserved 3#2)

/-! Reset and selection (70_reset_and_hazards.md, 40_control.md). -/

/-- R37: every register's reset value, in the state after reset of a block with any parameters and after RESET in any
state. That RESET applied by itself does so whatever RST holds is the model's choice (log 21). -/
def Obligations.ResetValues : Prop :=
  (∀ p : Params, (State.powerUp p).registers = (.idle, .none, 0, 0, false, 0#4, [])) ∧
  State.reset.registers = (.idle, .none, 0, 0, false, 0#4, []) ∧
  (∀ s : State, ∃ t, exec .reset s = .next t ∧ t.registers = (.idle, .none, 0, 0, false, 0#4, []))

/-- R230: RST = 1 fires RESET in any phase; it writes every register, makes no SinkWrite (the sink is not asked), is
the same done twice, and changes nothing in IDLE. That RST = 1 comes before a command R105 refuses is DEDUCED (log 9), that
RESET leaves all that is no register is DEDUCED (log 6), and that the host's levels move on by one entry a step (log 3)
and that RESET applied by itself does not read RST (log 21) are the model's choices. -/
def Obligations.ResetFromAnyPhase : Prop :=
  (∀ s : State, exec .reset s =
    .next { s with phase := .idle, err := .none, dlen := 0, sp := 0, nibValid := false, nibHold := 0#4, out := [] }) ∧
  (∀ s : State, s.ports.rst = true → ∃ t, exec .reset s = .next t ∧ step s = .next t.advanceHost) ∧
  (∀ s t : State, exec .reset s = .next t → exec .reset t = .next t) ∧
  (∀ s : State, s.Inv → s.phase = .idle → exec .reset s = .next s)

/-- R100, with R105 for the refusals: which operation a state enables, in the selector's order. That RST comes before a
refused command is DEDUCED from the order of R100 (log 9). -/
def Obligations.SelectorOrder : Prop :=
  ∀ s : State,
    (s.ports.rst = true → s.select = .operation .reset) ∧
    (s.ports.rst = false → s.ports.cmd = 1#2 → s.phase = .idle → s.select = .operation .start) ∧
    (s.ports.rst = false → s.ports.cmd = 1#2 → s.phase ≠ .idle → s.select = .refuse (.startOutsideIdle s.phase)) ∧
    (s.ports.rst = false → s.ports.cmd = 2#2 ∨ s.ports.cmd = 3#2 → s.select = .refuse (.reservedCommand s.ports.cmd)) ∧
    (s.quietNow → s.phase = .running → s.sp < s.dlen → s.select = .operation .step) ∧
    (s.quietNow → s.phase = .running → s.sp = s.dlen → s.select = .operation .finalize) ∧
    (s.quietNow → s.phase ≠ .running → s.select = .wait)

/-- A step runs the operation the selector chooses, whole; a STEP runs the unit that CLASSIFY gives for the run DETECT finds
(R100, R101, R103). That the host's levels are a schedule of which each step drops one entry is the model's choice (log 3,
DESIGN CHOICE). -/
def Obligations.StepRunsTheSelectedOperation : Prop :=
  (∀ (s t : State) (i : Instr), s.select = .operation i → exec i s = .next t → step s = .next t.advanceHost) ∧
  (∀ (s : State) (r : Run), s.stepEnabled → s.detect = .ok r →
    exec .step s = exec (classify r.colour r.length) s) ∧
  (∀ s : State, s.select = .wait → step s = .next s.advanceHost)

/-- The block reads no instructions; a unit of the opcode table is run next where the launch holds that unit's pixels. The
next step after `withFetchWord` is the decoded unit's own meaning, and it answers a next state (log 14). -/
def Obligations.FetchedWordRuns : Prop :=
  ∀ (s : State) (nbits w : Nat) (i : Instr), Memory.wf s.pix → decodeTableWord nbits w = some i →
    ∃ t, exec i (s.withFetchWord nbits w) = .next t ∧ step (s.withFetchWord nbits w) = .next t.advanceHost

/-- R105: a reserved command in any phase, and START outside IDLE, are refused (with RST = 0, log 9). That START
applied by itself reads neither RST nor CMD is the model's choice (log 21). -/
def Obligations.CommandsRefused : Prop :=
  (∀ s : State, s.ports.rst = false → s.ports.cmd = 2#2 ∨ s.ports.cmd = 3#2 →
    step s = .refused (.reservedCommand s.ports.cmd)) ∧
  (∀ s : State, s.ports.rst = false → s.ports.cmd = 1#2 → s.phase ≠ .idle →
    step s = .refused (.startOutsideIdle s.phase)) ∧
  (∀ s : State, s.phase ≠ .idle → exec .start s = .refused (.startOutsideIdle s.phase))

/-! START (40_control.md R102, 60_exceptions.md R200, R201, R204). -/

/-- R102: CMD = 01 in IDLE selects START; the checks in their order, each with its error and nothing else changed, and
otherwise a run of `w * h` pixels from position 0 with an empty buffer and an empty log. That START applied by itself does
so whatever RST and CMD hold is the model's choice (log 21). -/
def Obligations.StartChecksThenBegins : Prop :=
  ∀ (s : State) (w h : Int), s.phase = .idle →
    w = dimension s.cfg s.ports.cfgWidth → h = dimension s.cfg s.ports.cfgHeight →
    (s.ports.rst = false → s.ports.cmd = 1#2 → s.select = .operation .start) ∧
    (w = 0 ∨ h = 0 → exec .start s = .next { s with phase := .error, err := .emptyInput }) ∧
    (w ≠ 0 → h ≠ 0 → w < 0 ∨ h < 0 → exec .start s = .next { s with phase := .error, err := .invalidDimensions }) ∧
    (0 < w → 0 < h → (2 : Int) ^ s.cfg.lenW - 1 < w * h →
      exec .start s = .next { s with phase := .error, err := .invalidDimensions }) ∧
    (0 < w → 0 < h → w * h ≤ (2 : Int) ^ s.cfg.lenW - 1 → (s.cfg.arrLen : Int) < w * h →
      exec .start s = .next { s with phase := .error, err := .invalidDimensions }) ∧
    (0 < w → 0 < h → w * h ≤ (2 : Int) ^ s.cfg.lenW - 1 → w * h ≤ (s.cfg.arrLen : Int) →
      exec .start s = .next { s with
        phase := .running, err := .none, dlen := (w * h).toNat, sp := 0, nibValid := false, nibHold := 0#4, out := [] })

/-- R10, R29: a dimension port is DIM_W bits of two's complement. -/
def Obligations.DimensionIsTwosComplement : Prop :=
  ∀ (p : Params) (raw : Nat), raw < 2 ^ p.dimW →
    dimension p raw = if raw < 2 ^ (p.dimW - 1) then (raw : Int) else (raw : Int) - (2 : Int) ^ p.dimW

/-- R200, R201: only START raises the two dimension errors, and they are raised from IDLE only. -/
def Obligations.DimensionErrorsOnlyFromStart : Prop :=
  ∀ s t : State, step s = .next t → t.err ≠ s.err → t.err = .invalidDimensions ∨ t.err = .emptyInput →
    s.ports.rst = false ∧ s.ports.cmd = 1#2 ∧ s.phase = .idle ∧ exec .start s = .next { s with phase := .error, err := t.err }

/-! DETECT (41_run_detection.md). -/

/-- R120, R122: DETECT returns the colour of the pixel at SP and the length of the maximal run from SP, cut at DLEN and not
capped; it writes no register. What it compares is COLOR_COMPARE's (R121), said out: under Masked the low 2 bits, under Raw
all 8; in both it is the key that R120 names. -/
def Obligations.DetectFindsTheMaximalRun : Prop :=
  ∀ s : State, s.sp < s.dlen → s.dlen ≤ s.cfg.arrLen →
    ∃ r : Run, exec .detect s = .next { s with detected := some r } ∧ s.detect = .ok r ∧
      r.colour = (Memory.read s.pix s.sp).extractLsb' 0 2 ∧
      1 ≤ r.length ∧ s.sp + r.length ≤ s.dlen ∧
      (∀ j < r.length, pixelKey s.cfg.colorCompare (Memory.read s.pix (s.sp + j)) =
        pixelKey s.cfg.colorCompare (Memory.read s.pix s.sp)) ∧
      (s.sp + r.length < s.dlen → pixelKey s.cfg.colorCompare (Memory.read s.pix (s.sp + r.length)) ≠
        pixelKey s.cfg.colorCompare (Memory.read s.pix s.sp)) ∧
      (s.cfg.colorCompare = .masked →
        (∀ j < r.length, (Memory.read s.pix (s.sp + j)).extractLsb' 0 2 = (Memory.read s.pix s.sp).extractLsb' 0 2) ∧
        (s.sp + r.length < s.dlen →
          (Memory.read s.pix (s.sp + r.length)).extractLsb' 0 2 ≠ (Memory.read s.pix s.sp).extractLsb' 0 2)) ∧
      (s.cfg.colorCompare = .raw →
        (∀ j < r.length, Memory.read s.pix (s.sp + j) = Memory.read s.pix s.sp) ∧
        (s.sp + r.length < s.dlen → Memory.read s.pix (s.sp + r.length) ≠ Memory.read s.pix s.sp))

/-- R121: where every pixel below DLEN is in 0..3, the two comparison modes give the same run and the same step. -/
def Obligations.CompareModesAgreeOnColours : Prop :=
  ∀ s : State, s.dlen ≤ s.cfg.arrLen → (∀ i < s.dlen, (Memory.read s.pix i).toNat ≤ 3) →
    (s.sp < s.dlen → (s.withCompare .masked).detect = (s.withCompare .raw).detect) ∧
    (∀ t, step (s.withCompare .masked) = .next t → step (s.withCompare .raw) = .next (t.withCompare .raw))

/-- R24, R51, R120: the block reads its pixels only through their comparison keys, and only below DLEN: another pixel
memory with the same keys there gives the same step. -/
def Obligations.OnlyKeysBelowDlenMatter : Prop :=
  ∀ (s : State) (pix' : Memory), s.dlen ≤ s.cfg.arrLen →
    (∀ i < s.dlen, pixelKey s.cfg.colorCompare (Memory.read pix' i) = pixelKey s.cfg.colorCompare (Memory.read s.pix i)) →
    ∀ t, step s = .next t → step { s with pix := pix' } = .next { t with pix := pix' }

/-- The model's own stops (log 11, log 16): DETECT with no pixel left and CLASSIFY of an empty run, which R120 and R140
assert away, are refused; a scan position outside the pixel memory, which R50 excludes, faults. -/
def Obligations.StopsOutsideTheAssertions : Prop :=
  (∀ s : State, s.dlen ≤ s.sp → exec .detect s = .refused .noPixelLeft) ∧
  (∀ (s : State) (c : Colour), exec (.classify c 0) s = .refused .emptyRun) ∧
  (∀ s : State, s.sp < s.dlen → s.cfg.arrLen ≤ s.sp → exec .detect s = .fault (.pixelOutsideMemory s.sp))

/-! CLASSIFY (42_classification.md). -/

/-- R140: the unit form, the consumed length and the nibbles for every detected length from 1 on; CLASSIFY writes no
register. -/
def Obligations.ClassifySelectsTheUnit : Prop :=
  ∀ (s : State) (c : Colour) (len : Nat), 1 ≤ len →
    ∃ u, exec (.classify c len) s = .next { s with classified := some u } ∧ u = classify c len ∧
      (len < 7 → u.pixels = min len 3 ∧ encode u = [c.setWidth 4 ||| (BitVec.ofNat 4 (min len 3) <<< 2)] ∧
        (len = 1 → u = .short1 c) ∧ (len = 2 → u = .short2 c) ∧ (3 ≤ len → u = .short3 c)) ∧
      (7 ≤ len → len < 16 → u = .esclit c (BitVec.ofNat 4 len) ∧ u.pixels = len ∧
        encode u = [c.setWidth 4, BitVec.ofNat 4 len]) ∧
      (16 ≤ len → ∃ k ≤ 6, 16 * 2 ^ k ≤ len ∧ (∀ j ≤ 6, 16 * 2 ^ j ≤ len → j ≤ k) ∧
        u = .escpow c (BitVec.ofNat 4 k) ∧ u.pixels = 16 * 2 ^ k ∧ encode u = [c.setWidth 4, BitVec.ofNat 4 k])

/-- R123: counting a run past 1024 pixels changes nothing. -/
def Obligations.ClassifyIgnoresLengthPast1024 : Prop :=
  ∀ (c : Colour) (len : Nat), 1 ≤ len → classify c len = classify c (min len 1024)

/-- R147, R148: the units of a run bounded on both sides, pass by pass, are exactly the listing of R148's loop: no units
are merged. -/
def Obligations.PassesGiveTheRunListing : Prop :=
  ∀ (c : Colour) (len : Nat), passUnits c len len = runListing c len len

/-! Nibble packing (43_nibble_packing.md). -/

/-- R53: a SinkWrite appends the byte on Accept and leaves OUT on Reject; every other register is unchanged. -/
def Obligations.SinkWriteAppendsOrNot : Prop :=
  ∀ (s : State) (b : Byte),
    (s.sinkAnswer = .accept →
      s.sinkWrite b = (.accept, { s with out := s.out ++ [b], sink := s.sink.tail, draws := s.draws + 1 })) ∧
    (s.sinkAnswer = .reject → s.sinkWrite b = (.reject, { s with sink := s.sink.tail, draws := s.draws + 1 }))

/-- R171: a completed byte holds the earlier nibble in its high half and the later in its low half, and nothing is lost. -/
def Obligations.ByteComposition : Prop :=
  ∀ hi lo : Nibble, (packByte hi lo).extractLsb' 4 4 = hi ∧ (packByte hi lo).extractLsb' 0 4 = lo ∧
    packByte hi lo = hi ++ lo ∧ (packByte hi lo).toNat = 16 * hi.toNat + lo.toNat

/-- R170: EMIT_NIBBLE from an empty buffer holds the nibble; from a full one it completes a byte, which is accepted
or raises OUTPUT_WRITE_FAILURE with every other register as before. That EMIT_NIBBLE run by itself does so in every phase,
and not only inside a STEP, is the model's choice (log 20); that a byte takes one of the sink's answers is log 4. -/
def Obligations.EmitNibbleHoldsOrCompletes : Prop :=
  ∀ (s : State) (u : Nibble),
    (s.nibValid = false → exec (.emitNibble u) s = .next { s with nibValid := true, nibHold := u }) ∧
    (s.nibValid = true → s.sinkAnswer = .accept → exec (.emitNibble u) s =
      .next { s with nibValid := false, nibHold := 0#4, out := s.out ++ [s.nibHold ++ u],
                     sink := s.sink.tail, draws := s.draws + 1 }) ∧
    (s.nibValid = true → s.sinkAnswer = .reject → exec (.emitNibble u) s =
      .next { s with phase := .error, err := .outputWriteFailure, sink := s.sink.tail, draws := s.draws + 1 })

/-- R172: in RUNNING with SP = DLEN a quiet host's next operation is FINALIZE: nothing pending goes straight to DONE; a
pending nibble goes out with a zero low half, or raises OUTPUT_WRITE_FAILURE with every other register as before. -/
def Obligations.FinalizeFlushesThenDone : Prop :=
  ∀ s : State, s.phase = .running → s.sp = s.dlen →
    (s.quietNow → s.select = .operation .finalize) ∧
    (s.nibValid = false → exec .finalize s = .next { s with phase := .done }) ∧
    (s.nibValid = true → s.sinkAnswer = .accept → exec .finalize s =
      .next { s with phase := .done, nibValid := false, nibHold := 0#4, out := s.out ++ [s.nibHold ++ 0#4],
                     sink := s.sink.tail, draws := s.draws + 1 }) ∧
    (s.nibValid = true → s.sinkAnswer = .reject → exec .finalize s =
      .next { s with phase := .error, err := .outputWriteFailure, sink := s.sink.tail, draws := s.draws + 1 })

/-- R52, R176: the bytes of a finished run are its nibbles in order, two to a byte, and after an odd count one zero
nibble. -/
def Obligations.FinalizePadsAnOddNibble : Prop :=
  ∀ s t : State, s.phase = .running → s.sp = s.dlen → exec .finalize s = .next t → t.phase = .done →
    t.out.flatMap byteNibbles = s.nibbles ++ (if s.nibValid then [0#4] else []) ∧
    t.out.length = (s.nibbles.length + 1) / 2

/-! The unit forms (42_classification.md R141 to R146). -/

/-- R141, R142, R143: where STEP is enabled and DETECT finds a run of 1, 2, or 3 to 6 pixels of colour `c`, SHORT1,
SHORT2 or SHORT3 emits its one nibble and consumes 1, 2 or 3 pixels; from a full buffer the byte may be rejected. Each
equation gives the whole next state, so it is the frame too. -/
def Obligations.ShortUnitsEmitOneNibble : Prop :=
  ∀ (s : State) (c : Colour) (len n : Nat) (u : Instr) (a : Nibble),
    s.stepEnabled → s.detect = .ok { colour := c, length := len } →
    (len = 1 ∧ u = .short1 c ∧ a = 0x4#4 + c.setWidth 4 ∧ n = 1) ∨
      (len = 2 ∧ u = .short2 c ∧ a = 0x8#4 + c.setWidth 4 ∧ n = 2) ∨
      (3 ≤ len ∧ len ≤ 6 ∧ u = .short3 c ∧ a = 0xC#4 + c.setWidth 4 ∧ n = 3) →
    (s.nibValid = false → exec u s = .next { s with nibValid := true, nibHold := a, sp := s.sp + n }) ∧
    (s.nibValid = true → s.sinkAnswer = .accept → exec u s =
      .next { s with nibValid := false, nibHold := 0#4, out := s.out ++ [s.nibHold ++ a], sp := s.sp + n,
                     sink := s.sink.tail, draws := s.draws + 1 }) ∧
    (s.nibValid = true → s.sinkAnswer = .reject → exec u s =
      .next { s with phase := .error, err := .outputWriteFailure, sink := s.sink.tail, draws := s.draws + 1 })

/-- R144, R145: where STEP is enabled and DETECT finds a run of 7 to 15, or of 16 or more pixels of colour `c`, ESCLIT or
ESCPOW emits the escape nibble and its second nibble: exactly one byte is offered, and the buffer is as full after as
before. Each equation gives the whole next state, so it is the frame too. -/
def Obligations.EscapeUnitsEmitTwoNibbles : Prop :=
  ∀ (s : State) (c : Colour) (len n : Nat) (u : Instr) (v : Nibble),
    s.stepEnabled → s.detect = .ok { colour := c, length := len } →
    (7 ≤ len ∧ len ≤ 15 ∧ u = .esclit c v ∧ v.toNat = len ∧ n = len) ∨
      (v.toNat ≤ 6 ∧ 16 * 2 ^ v.toNat ≤ len ∧ (v.toNat < 6 → len < 16 * 2 ^ (v.toNat + 1)) ∧
        u = .escpow c v ∧ n = 16 * 2 ^ v.toNat) →
    (s.nibValid = false → s.sinkAnswer = .accept → exec u s =
      .next { s with nibHold := 0#4, out := s.out ++ [c.setWidth 4 ++ v], sp := s.sp + n,
                     sink := s.sink.tail, draws := s.draws + 1 }) ∧
    (s.nibValid = true → s.sinkAnswer = .accept → exec u s =
      .next { s with nibHold := v, out := s.out ++ [s.nibHold ++ c.setWidth 4], sp := s.sp + n,
                     sink := s.sink.tail, draws := s.draws + 1 }) ∧
    (s.sinkAnswer = .reject → exec u s =
      .next { s with phase := .error, err := .outputWriteFailure, sink := s.sink.tail, draws := s.draws + 1 })

/-- R103, R203: STEP completes in every sound state that enables it, and is its sub-operations in order: DETECT's run,
CLASSIFY of it, EMIT_NIBBLE of each nibble, then SP; a rejected nibble undoes all of it. -/
def Obligations.StepIsItsSubOperations : Prop :=
  ∀ s : State, s.Inv → s.stepEnabled →
    ∃ (r : Run) (u : Instr) (t : State),
      exec .detect s = .next { s with detected := some r } ∧
      exec (.classify r.colour r.length) s = .next { s with classified := some u } ∧
      exec .step s = .next t ∧ exec u s = .next t ∧
      ((∃ (a : Nibble) (m : State), encode u = [a] ∧ exec (.emitNibble a) s = .next m ∧
          (m.phase ≠ .error → t = { m with sp := s.sp + u.pixels }) ∧ (m.phase = .error → t = m)) ∨
       (∃ (a b : Nibble) (m : State), encode u = [a, b] ∧ exec (.emitNibble a) s = .next m ∧
          (m.phase = .error → t = m) ∧
          (m.phase ≠ .error → ∃ m', exec (.emitNibble b) m = .next m' ∧
            (m'.phase ≠ .error → t = { m' with sp := s.sp + u.pixels }) ∧
            (m'.phase = .error → t =
              { s with phase := .error, err := .outputWriteFailure, sink := m'.sink, draws := m'.draws }))))

/-- The model's reading of R100 for a unit, STEP or FINALIZE that PHASE, SP, DLEN and the run at SP do not select (log 7): it
does not fire, and nothing changes. RST and CMD are not read (log 21). -/
def Obligations.UnselectedDoNotFire : Prop :=
  (∀ (s : State) (u : Instr) (r : Run), u.isUnit = true → s.stepEnabled → s.detect = .ok r →
    u ≠ classify r.colour r.length → exec u s = .next s) ∧
  (∀ (s : State) (u : Instr), u.isUnit = true → ¬ s.stepEnabled → exec u s = .next s) ∧
  (∀ s : State, ¬ s.stepEnabled → exec .step s = .next s) ∧
  (∀ s : State, ¬ s.finalizeEnabled → exec .finalize s = .next s)

/-! Frames. -/

/-- What STEP, a unit and EMIT_NIBBLE leave unchanged: DLEN, every pixel, the parameters, the host's levels, what DETECT and
CLASSIFY last returned; OUT but for one byte at its end; PHASE and ERR but for OUTPUT_WRITE_FAILURE. EMIT_NIBBLE leaves SP
too (R23, R27, R28). -/
def Obligations.FrameOfEmission : Prop :=
  ∀ (i : Instr) (s t : State), i.isUnit = true ∨ i = .step ∨ (∃ u, i = .emitNibble u) → exec i s = .next t →
    t.dlen = s.dlen ∧ (∀ a, Memory.read t.pix a = Memory.read s.pix a) ∧ t.cfg = s.cfg ∧ t.host = s.host ∧
    t.detected = s.detected ∧ t.classified = s.classified ∧
    (t.out = s.out ∨ ∃ b, t.out = s.out ++ [b]) ∧
    ((t.phase = s.phase ∧ t.err = s.err) ∨ (t.phase = .error ∧ t.err = .outputWriteFailure)) ∧
    ((∃ u, i = .emitNibble u) → t.sp = s.sp)

/-- What DETECT and CLASSIFY leave unchanged: every register of R20, every pixel, the whole launch; each changes only the
model's own record of what it returned (R120, R140, log 8). -/
def Obligations.FrameOfPureSubOperations : Prop :=
  ∀ (i : Instr) (s t : State), i = .detect ∨ (∃ c len, i = .classify c len) → exec i s = .next t →
    t.registers = s.registers ∧ (∀ a, Memory.read t.pix a = Memory.read s.pix a) ∧ t.cfg = s.cfg ∧ t.host = s.host ∧
    t.sink = s.sink ∧ t.draws = s.draws ∧
    (i = .detect → t.classified = s.classified) ∧ (i ≠ .detect → t.detected = s.detected)

/-- What RESET, START and FINALIZE leave unchanged: every pixel, the parameters, the host's levels and what DETECT and
CLASSIFY last returned; RESET and START do not ask the sink; FINALIZE leaves DLEN and SP (R102, R172, R230). -/
def Obligations.FrameOfControl : Prop :=
  ∀ (i : Instr) (s t : State), i = .reset ∨ i = .start ∨ i = .finalize → exec i s = .next t →
    (∀ a, Memory.read t.pix a = Memory.read s.pix a) ∧ t.cfg = s.cfg ∧ t.host = s.host ∧
    t.detected = s.detected ∧ t.classified = s.classified ∧
    (i ≠ .finalize → t.sink = s.sink ∧ t.draws = s.draws) ∧ (i = .finalize → t.dlen = s.dlen ∧ t.sp = s.sp)

/-! The whole machine. -/

/-- R34 items 1 to 6 and R24's bounds hold after reset, whatever the parameters. -/
def Obligations.InvariantAtReset : Prop := State.reset.Inv ∧ ∀ p : Params, (State.powerUp p).Inv

/-- R34 items 1 to 6, R24's bounds and the canonical pixel memory are kept by every step, from every state that has
them. -/
def Obligations.StepKeepsInvariant : Prop := ∀ s t : State, s.Inv → step s = .next t → t.Inv

/-- After reset nothing is emitted and nothing scanned. -/
def Obligations.StreamInvariantAtReset : Prop := State.reset.StreamInv ∧ ∀ p : Params, (State.powerUp p).StreamInv

/-- R177, R58 item 3: every step keeps "the units emitted so far stand for exactly the pixels scanned so far, in order",
and a step into DONE leaves a byte stream that decodes (R81) to the colours of all DLEN pixels. -/
def Obligations.StepKeepsStreamInvariant : Prop :=
  ∀ s t : State, s.Inv → s.StreamInv → step s = .next t → t.StreamInv

/-- R104, R106, R177: from every sound RUNNING state, with a quiet host and a sink that accepts, the run reaches DONE
within DLEN - SP + 1 operations, and its output decodes to the colours of all its pixels. -/
def Obligations.RunReachesDoneAndDecodes : Prop :=
  ∀ s : State, s.Inv → s.StreamInv → s.phase = .running → s.quiet → s.SinkAccepts (s.dlen - s.sp + 1) →
    ∃ t : State, Sys2Proof.core.run (s.dlen - s.sp + 1) s = .next t ∧ t.phase = .done ∧
      decodeStream t.out = .ok (s.colours s.dlen)

/-- R107, R102, R177: a launch in IDLE whose host issues START once and is quiet from then on, with dimensions that pass
START's checks and a sink that accepts, reaches DONE, and its output decodes to the colours of the first `w * h` pixels. -/
def Obligations.LaunchEncodesItsPixels : Prop :=
  ∀ (s : State) (d : Drive) (w h : Int), s.Inv → s.phase = .idle → s.host = [d] → d.rst = false → d.cmd = 1#2 →
    w = dimension s.cfg d.cfgWidth → h = dimension s.cfg d.cfgHeight → 0 < w → 0 < h →
    w * h ≤ (2 : Int) ^ s.cfg.lenW - 1 → w * h ≤ (s.cfg.arrLen : Int) → s.SinkAccepts ((w * h).toNat + 1) →
    ∃ t : State, Sys2Proof.core.run ((w * h).toNat + 2) s = .next t ∧ t.phase = .done ∧
      decodeStream t.out = .ok (s.colours (w * h).toNat)

/-- R234, R108: whatever the sink answers, the bytes in OUT at any moment of a run, and so after an error, are the first
bytes of the stream the run produces with a sink that accepts everything. -/
def Obligations.OutputIsAPrefixOfTheStream : Prop :=
  ∀ (s t : State) (k : Nat), s.Inv → s.phase = .running → s.quiet → Sys2Proof.core.run k s = .next t →
    ∃ u : State,
      Sys2Proof.core.run (s.dlen - s.sp + 1) { s with sink := List.replicate (s.dlen - s.sp + 1) .accept } = .next u ∧
      u.phase = .done ∧ t.out <+: u.out

/-- R178: a one-pixel run gives the single byte `(c | 4) << 4`. -/
def Obligations.OnePixelGivesOneByte : Prop :=
  ∀ s : State, s.phase = .running → s.sp = 0 → s.dlen = 1 → 1 ≤ s.cfg.arrLen → s.nibValid = false → s.out = [] →
    s.quiet → s.sinkAnswer = .accept →
    ∃ t : State, Sys2Proof.core.run 2 s = .next t ∧ t.phase = .done ∧
      t.out = [((pixelColour (Memory.read s.pix 0)).setWidth 8 ||| (1#8 <<< 2)) <<< 4]

/-- R21: PHASE changes only along its edges. -/
def Obligations.PhaseEdges : Prop :=
  ∀ s t : State, step s = .next t → t.phase ≠ s.phase →
    (s.phase = .idle ∧ (t.phase = .running ∨ t.phase = .error) ∧ s.ports.rst = false ∧ s.ports.cmd = 1#2) ∨
    (s.phase = .running ∧ t.phase = .done ∧ s.sp = s.dlen ∧ s.ports.rst = false) ∨
    (s.phase = .running ∧ t.phase = .error ∧ s.ports.rst = false) ∨
    (t.phase = .idle ∧ s.ports.rst = true)

/-- R203: an operation that raises an error leaves DLEN, SP, NIB_VALID, NIB_HOLD and OUT as they were before it, and
latches its code: OUTPUT_WRITE_FAILURE from a run, a dimension error from START. -/
def Obligations.ErrorsArePrecise : Prop :=
  ∀ s t : State, step s = .next t → s.phase ≠ .error → t.phase = .error →
    t.dlen = s.dlen ∧ t.sp = s.sp ∧ t.nibValid = s.nibValid ∧ t.nibHold = s.nibHold ∧ t.out = s.out ∧
    (s.phase = .running → t.err = .outputWriteFailure) ∧
    (s.phase = .idle → t.err = .emptyInput ∨ t.err = .invalidDimensions)

/-- R100 item 6, R106, R205: in IDLE, DONE and ERROR with a host that asks for nothing, no operation fires and no register
changes; only RESET leaves ERROR. That the host's levels move on by one entry a step is the model's choice (log 3). -/
def Obligations.WaitingAndTerminalStates : Prop :=
  (∀ s : State, s.quietNow → s.phase ≠ .running → step s = .next { s with host := s.host.tail }) ∧
  (∀ s t : State, step s = .next t → s.phase = .error → t.phase ≠ .error → s.ports.rst = true ∧ t.phase = .idle)

/-- R23, R146: while a run goes on, each step moves SP forward by 1 to 1024 pixels and never past DLEN; a step that ends the
run leaves SP. -/
def Obligations.ScanPositionAdvances : Prop :=
  ∀ s t : State, s.Inv → s.phase = .running → s.ports.rst = false → step s = .next t →
    t.dlen = s.dlen ∧
    (t.phase = .running → s.sp < t.sp ∧ t.sp ≤ s.sp + 1024 ∧ t.sp ≤ t.dlen) ∧
    (t.phase ≠ .running → t.sp = s.sp)

/-- R28: OUT only grows, by at most one byte a step, except that RESET and START empty it. -/
def Obligations.OutputIsAppendOnly : Prop :=
  ∀ s t : State, step s = .next t →
    t.out = s.out ∨ (∃ b, t.out = s.out ++ [b]) ∨
    (t.out = [] ∧ (s.ports.rst = true ∨ (s.phase = .idle ∧ s.ports.cmd = 1#2)))

/-- R35, R58 item 1, R61: no step writes PIX or changes the parameters; the host's levels move on by one. -/
def Obligations.LaunchIsConstant : Prop :=
  ∀ s t : State, step s = .next t →
    t.pix = s.pix ∧ (∀ a, Memory.read t.pix a = Memory.read s.pix a) ∧ t.cfg = s.cfg ∧ t.host = s.host.tail

/-- R175: a one-nibble STEP offers 0 or 1 byte, a two-nibble STEP exactly one; FINALIZE 0 or 1. -/
def Obligations.AtMostOneWriteEach : Prop :=
  (∀ (s t : State) (u : Instr), s.selectedUnit = .ok (some u) → exec .step s = .next t →
    ((encode u).length = 1 → t.draws = s.draws + (if s.nibValid then 1 else 0)) ∧
    ((encode u).length = 2 → t.draws = s.draws + 1) ∧
    ((encode u).length = 1 ∨ (encode u).length = 2)) ∧
  (∀ s t : State, s.finalizeEnabled → exec .finalize s = .next t → t.draws = s.draws + (if s.nibValid then 1 else 0))

/-- R174, R34 item 7: a START that begins a run has emitted no nibble; a STEP that completes adds its unit's nibbles, 1 or
2, to the nibble stream, whose length is twice the bytes of OUT plus NIB_VALID. -/
def Obligations.NibblesAreCounted : Prop :=
  (∀ s : State, s.nibbles.length = 2 * s.out.length + (if s.nibValid then 1 else 0)) ∧
  (∀ s t : State, exec .start s = .next t → t.phase = .running → t.nibbles = []) ∧
  (∀ (s t : State) (u : Instr), s.selectedUnit = .ok (some u) → exec .step s = .next t → t.phase ≠ .error →
    t.nibbles = s.nibbles ++ encode u)

/-- R106, R50, R100, R102: in a sound state no step faults; a step answers a next state unless its command is one R105 refuses; and a
RUNNING state with a quiet host always has an operation. A step goes on with RST = 1 whatever CMD holds: that RST comes before
a command R105 refuses is DEDUCED (log 9). -/
def Obligations.SoundStatesGoOn : Prop :=
  ∀ s : State, s.Inv →
    (∀ f, step s ≠ .fault f) ∧
    (s.ports.rst = true ∨ s.ports.cmd = 0#2 ∨ (s.ports.cmd = 1#2 ∧ s.phase = .idle) → ∃ t, step s = .next t) ∧
    (s.phase = .running → s.quietNow → s.select = .operation .step ∨ s.select = .operation .finalize)

/-- R233: no step but one that fires START reads CFG_WIDTH and CFG_HEIGHT, in any phase. -/
def Obligations.DimensionsReadOnlyByStart : Prop :=
  ∀ (s : State) (d d' : Drive) (ds : List Drive), s.phase ≠ .idle ∨ d.rst = true ∨ d.cmd ≠ 1#2 →
    d.rst = d'.rst → d.cmd = d'.cmd →
    step { s with host := d :: ds } = step { s with host := d' :: ds }
end

