-- ==== Sys2Proof/Laws/Classification.lean ====
section
/-!
SUPPORT. What CLASSIFY can answer, said once (42_classification.md R140).
-/
namespace Sys2Proof.Machine

/-- The size class of a long run: at most 6, its length fits, and the next one's does not. -/
theorem sizeClass_spec (len : Nat) (h : 16 ≤ len) :
    sizeClass len ≤ 6 ∧ 16 <<< sizeClass len ≤ len ∧
      (sizeClass len < 6 → len < 16 <<< (sizeClass len + 1)) := by
  simp only [sizeClass, sizeClassFrom]
  simp only [Nat.zero_add, Nat.reduceAdd, Nat.reduceShiftLeft]
  split_ifs <;> simp <;> omega

/-- Everything CLASSIFY can answer for a run of at least one pixel. -/
theorem classify_cases (c : Colour) (len : Nat) (h : 1 ≤ len) :
    (len = 1 ∧ classify c len = .short1 c) ∨
    (len = 2 ∧ classify c len = .short2 c) ∨
    (3 ≤ len ∧ len ≤ 6 ∧ classify c len = .short3 c) ∨
    (7 ≤ len ∧ len ≤ 15 ∧ classify c len = .esclit c (BitVec.ofNat 4 len)) ∨
    (16 ≤ len ∧ classify c len = .escpow c (BitVec.ofNat 4 (sizeClass len))) := by
  unfold classify
  split
  · split
    · exact .inl ⟨by omega, rfl⟩
    · split
      · exact .inr (.inl ⟨by omega, rfl⟩)
      · exact .inr (.inr (.inl ⟨by omega, by omega, rfl⟩))
  · split
    · exact .inr (.inr (.inr (.inl ⟨by omega, by omega, rfl⟩)))
    · exact .inr (.inr (.inr (.inr ⟨by omega, rfl⟩)))

theorem ofNat4_toNat {n : Nat} (h : n < 16) : (BitVec.ofNat 4 n).toNat = n := by
  simp; omega

/-- A classified unit is a well-formed unit of the run's colour, and takes between 1 pixel and the whole run (R146). -/
theorem classify_bounds (c : Colour) (len : Nat) (h : 1 ≤ len) :
    (classify c len).isUnit = true ∧ (classify c len).wellFormed = true ∧ (classify c len).colour = c ∧
      1 ≤ (classify c len).pixels ∧ (classify c len).pixels ≤ len ∧ (classify c len).pixels ≤ 1024 := by
  rcases classify_cases c len h with ⟨h1, e⟩ | ⟨h1, e⟩ | ⟨h1, h2, e⟩ | ⟨h1, h2, e⟩ | ⟨h1, e⟩
  · simp [e, Instr.isUnit, Instr.wellFormed, Instr.colour, Instr.pixels]; omega
  · simp [e, Instr.isUnit, Instr.wellFormed, Instr.colour, Instr.pixels]; omega
  · simp [e, Instr.isUnit, Instr.wellFormed, Instr.colour, Instr.pixels]; omega
  · have := ofNat4_toNat (n := len) (by omega)
    simp only [e, Instr.isUnit, Instr.wellFormed, Instr.colour, Instr.pixels, this]
    simp; omega
  · obtain ⟨h6, hfit, -⟩ := sizeClass_spec len h1
    have ht := ofNat4_toNat (n := sizeClass len) (by omega)
    simp only [e, Instr.isUnit, Instr.wellFormed, Instr.colour, Instr.pixels, ht]
    have hk : ∀ k, k ≤ 6 → 1 ≤ 16 <<< k ∧ 16 <<< k ≤ 1024 := by decide
    have := hk _ h6
    simp only [decide_eq_true_eq, true_and]
    exact ⟨h6, this.1, hfit, this.2⟩

end Sys2Proof.Machine
end

