-- ==== Sys2Proof/Laws/Detection.lean ====
section
/-!
SUPPORT. What DETECT can answer, said once (41_run_detection.md R120).
-/
namespace Sys2Proof.Machine

/-- The comparison key of the pixel at an index. -/
abbrev State.keyAt (s : State) (i : Nat) : Byte := pixelKey s.cfg.colorCompare (Memory.read s.pix i)

theorem State.pixRead_inside {s : State} {i : Nat} (h : i < s.cfg.arrLen) :
    s.pixRead i = .ok (Memory.read s.pix i) := by simp [State.pixRead, h]

/-- The loop of R120 inside the pixel memory: it answers how many pixels continue the run, and stops at the first that does
not. -/
theorem State.matching_spec (s : State) (r : Byte) : ∀ (fuel i : Nat), i + fuel ≤ s.cfg.arrLen →
    ∃ n, s.matching r fuel i = .ok n ∧ n ≤ fuel ∧
      (∀ j < n, s.keyAt (i + j) = pixelKey s.cfg.colorCompare r) ∧
      (n < fuel → s.keyAt (i + n) ≠ pixelKey s.cfg.colorCompare r) := by
  intro fuel
  induction fuel with
  | zero => intro i _; exact ⟨0, rfl, Nat.le_refl _, by simp, by simp⟩
  | succ fuel ih =>
    intro i hi
    simp only [State.matching, State.pixRead_inside (s := s) (i := i) (by omega)]
    split
    · rename_i hkey
      obtain ⟨n, hn, hle, hall, hstop⟩ := ih (i + 1) (by omega)
      refine ⟨n + 1, by simp [hn], by omega, ?_, ?_⟩
      · intro j hj
        cases j with
        | zero => exact hkey
        | succ j =>
          have := hall j (by omega)
          rwa [show i + 1 + j = i + (j + 1) by omega] at this
      · intro hlt
        have := hstop (by omega)
        rwa [show i + 1 + n = i + (n + 1) by omega] at this
    · rename_i hkey
      exact ⟨0, rfl, by omega, by simp, fun _ => hkey⟩

/-- DETECT where a pixel is left and the run lies in the pixel memory: the maximal run from SP. -/
theorem State.detect_spec (s : State) (hsp : s.sp < s.dlen) (hmem : s.dlen ≤ s.cfg.arrLen) :
    ∃ len, s.detect = .ok { colour := pixelColour (Memory.read s.pix s.sp), length := len } ∧
      1 ≤ len ∧ s.sp + len ≤ s.dlen ∧
      (∀ j < len, s.keyAt (s.sp + j) = s.keyAt s.sp) ∧
      (s.sp + len < s.dlen → s.keyAt (s.sp + len) ≠ s.keyAt s.sp) := by
  obtain ⟨n, hn, hle, hall, hstop⟩ :=
    s.matching_spec (Memory.read s.pix s.sp) (s.dlen - s.sp - 1) (s.sp + 1) (by omega)
  refine ⟨n + 1, by simp [State.detect, State.pixRead_inside (s := s) (i := s.sp) (by omega), hn], by omega, by omega, ?_, ?_⟩
  · intro j hj
    cases j with
    | zero => rfl
    | succ j =>
      have := hall j (by omega)
      rwa [show s.sp + 1 + j = s.sp + (j + 1) by omega] at this
  · intro hlt
    have := hstop (by omega)
    rwa [show s.sp + 1 + n = s.sp + (n + 1) by omega] at this

/-- Equal keys have equal colours, under either comparison (R121). -/
theorem pixelColour_of_key {m : ColorCompare} {x y : Byte} (h : pixelKey m x = pixelKey m y) :
    pixelColour x = pixelColour y := by
  cases m with
  | masked =>
    simp only [pixelKey] at h
    have := congrArg (fun b : Byte => b.extractLsb' 0 2) h
    simp only [pixelColour]
    have e : ∀ z : Byte, (z &&& 3#8).extractLsb' 0 2 = z.extractLsb' 0 2 := by decide
    simpa [e] using this
  | raw => exact congrArg pixelColour h

/-- Under Masked two keys are equal exactly where the low 2 bits are (R121). -/
theorem pixelKey_masked_eq_iff (x y : Byte) :
    pixelKey .masked x = pixelKey .masked y ↔ x.extractLsb' 0 2 = y.extractLsb' 0 2 := by
  refine ⟨fun h => pixelColour_of_key h, fun h => ?_⟩
  have e : ∀ z : Byte, pixelKey .masked z = (z.extractLsb' 0 2).setWidth 8 := by decide
  rw [e, e, h]

/-- Under Raw two keys are equal exactly where all 8 bits are (R121). -/
theorem pixelKey_raw_eq_iff (x y : Byte) : pixelKey .raw x = pixelKey .raw y ↔ x = y := Iff.rfl

end Sys2Proof.Machine
end

