-- ==== Sys2Proof/Laws/Decode.lean ====
section
/-!
SUPPORT. The nibble fields and the one-unit decoder.
-/
namespace Sys2Proof

@[simp] theorem byteNibbles_length (b : Byte) : (byteNibbles b).length = 2 := rfl

/-- A first nibble is a short form exactly when its count field is not 0 (R75). -/
theorem shortUnit_eq_none_iff (u : Nibble) : shortUnit u = none ↔ nibbleCount u = 0#2 := by
  revert u; decide

/-- The nibble of a short form reads back as that form. -/
theorem shortUnit_encode :
    (∀ c : Colour, shortUnit (c.setWidth 4 ||| (1#4 <<< 2)) = some (.short1 c)) ∧
    (∀ c : Colour, shortUnit (c.setWidth 4 ||| (2#4 <<< 2)) = some (.short2 c)) ∧
    (∀ c : Colour, shortUnit (c.setWidth 4 ||| (3#4 <<< 2)) = some (.short3 c)) := by decide

/-- An escape nibble is no short form, and its colour is its value. -/
theorem shortUnit_escape : ∀ c : Colour, shortUnit (c.setWidth 4) = none ∧ nibbleColour (c.setWidth 4) = c := by decide

theorem escapeUnit_esclit (c : Colour) (v : Nibble) (h : 7 ≤ v.toNat) :
    escapeUnit (c.setWidth 4) v = .esclit c v := by
  simp [escapeUnit, h, (shortUnit_escape c).2]

theorem escapeUnit_escpow (c : Colour) (k : Nibble) (h : k.toNat ≤ 6) :
    escapeUnit (c.setWidth 4) k = .escpow c k := by
  have : ¬ 7 ≤ k.toNat := by omega
  simp [escapeUnit, this, (shortUnit_escape c).2]

/-- A unit's encoding is one short nibble or an escape nibble with its length nibble. -/
theorem encode_shape (i : Instr) (hu : i.isUnit = true) (hw : i.wellFormed = true) :
    (∃ a, encode i = [a] ∧ shortUnit a = some i) ∨
    (∃ a b, encode i = [a, b] ∧ shortUnit a = none ∧ escapeUnit a b = i) := by
  cases i with
  | short1 c => exact .inl ⟨_, rfl, shortUnit_encode.1 c⟩
  | short2 c => exact .inl ⟨_, rfl, shortUnit_encode.2.1 c⟩
  | short3 c => exact .inl ⟨_, rfl, shortUnit_encode.2.2 c⟩
  | esclit c v =>
    exact .inr ⟨_, _, rfl, (shortUnit_escape c).1, escapeUnit_esclit c v (by simpa [Instr.wellFormed] using hw)⟩
  | escpow c k =>
    exact .inr ⟨_, _, rfl, (shortUnit_escape c).1, escapeUnit_escpow c k (by simpa [Instr.wellFormed] using hw)⟩
  | reset => simp [Instr.isUnit] at hu
  | start => simp [Instr.isUnit] at hu
  | step => simp [Instr.isUnit] at hu
  | finalize => simp [Instr.isUnit] at hu
  | detect => simp [Instr.isUnit] at hu
  | classify c len => simp [Instr.isUnit] at hu
  | emitNibble u => simp [Instr.isUnit] at hu

end Sys2Proof
end

