-- ==== Sys2Proof/Laws/State.lean ====
section
/-!
SUPPORT. One lemma per field per named update of State, so that no proof unfolds a record update.
-/
namespace Sys2Proof.Machine

/-! `State.advanceHost` -/

@[simp] theorem State.advanceHost_phase (s : State) : s.advanceHost.phase = s.phase := rfl
@[simp] theorem State.advanceHost_err (s : State) : s.advanceHost.err = s.err := rfl
@[simp] theorem State.advanceHost_dlen (s : State) : s.advanceHost.dlen = s.dlen := rfl
@[simp] theorem State.advanceHost_sp (s : State) : s.advanceHost.sp = s.sp := rfl
@[simp] theorem State.advanceHost_nibValid (s : State) : s.advanceHost.nibValid = s.nibValid := rfl
@[simp] theorem State.advanceHost_nibHold (s : State) : s.advanceHost.nibHold = s.nibHold := rfl
@[simp] theorem State.advanceHost_out (s : State) : s.advanceHost.out = s.out := rfl
@[simp] theorem State.advanceHost_cfg (s : State) : s.advanceHost.cfg = s.cfg := rfl
@[simp] theorem State.advanceHost_pix (s : State) : s.advanceHost.pix = s.pix := rfl
@[simp] theorem State.advanceHost_host (s : State) : s.advanceHost.host = s.host.tail := rfl
@[simp] theorem State.advanceHost_sink (s : State) : s.advanceHost.sink = s.sink := rfl
@[simp] theorem State.advanceHost_draws (s : State) : s.advanceHost.draws = s.draws := rfl
@[simp] theorem State.advanceHost_detected (s : State) : s.advanceHost.detected = s.detected := rfl
@[simp] theorem State.advanceHost_classified (s : State) : s.advanceHost.classified = s.classified := rfl

/-! `State.takeAnswer` -/

@[simp] theorem State.takeAnswer_phase (s : State) : s.takeAnswer.phase = s.phase := rfl
@[simp] theorem State.takeAnswer_err (s : State) : s.takeAnswer.err = s.err := rfl
@[simp] theorem State.takeAnswer_dlen (s : State) : s.takeAnswer.dlen = s.dlen := rfl
@[simp] theorem State.takeAnswer_sp (s : State) : s.takeAnswer.sp = s.sp := rfl
@[simp] theorem State.takeAnswer_nibValid (s : State) : s.takeAnswer.nibValid = s.nibValid := rfl
@[simp] theorem State.takeAnswer_nibHold (s : State) : s.takeAnswer.nibHold = s.nibHold := rfl
@[simp] theorem State.takeAnswer_out (s : State) : s.takeAnswer.out = s.out := rfl
@[simp] theorem State.takeAnswer_cfg (s : State) : s.takeAnswer.cfg = s.cfg := rfl
@[simp] theorem State.takeAnswer_pix (s : State) : s.takeAnswer.pix = s.pix := rfl
@[simp] theorem State.takeAnswer_host (s : State) : s.takeAnswer.host = s.host := rfl
@[simp] theorem State.takeAnswer_sink (s : State) : s.takeAnswer.sink = s.sink.tail := rfl
@[simp] theorem State.takeAnswer_draws (s : State) : s.takeAnswer.draws = s.draws + 1 := rfl
@[simp] theorem State.takeAnswer_detected (s : State) : s.takeAnswer.detected = s.detected := rfl
@[simp] theorem State.takeAnswer_classified (s : State) : s.takeAnswer.classified = s.classified := rfl

/-! `State.appendOut` -/

@[simp] theorem State.appendOut_phase (s : State) (b : Byte) : (s.appendOut b).phase = s.phase := rfl
@[simp] theorem State.appendOut_err (s : State) (b : Byte) : (s.appendOut b).err = s.err := rfl
@[simp] theorem State.appendOut_dlen (s : State) (b : Byte) : (s.appendOut b).dlen = s.dlen := rfl
@[simp] theorem State.appendOut_sp (s : State) (b : Byte) : (s.appendOut b).sp = s.sp := rfl
@[simp] theorem State.appendOut_nibValid (s : State) (b : Byte) : (s.appendOut b).nibValid = s.nibValid := rfl
@[simp] theorem State.appendOut_nibHold (s : State) (b : Byte) : (s.appendOut b).nibHold = s.nibHold := rfl
@[simp] theorem State.appendOut_out (s : State) (b : Byte) : (s.appendOut b).out = s.out ++ [b] := rfl
@[simp] theorem State.appendOut_cfg (s : State) (b : Byte) : (s.appendOut b).cfg = s.cfg := rfl
@[simp] theorem State.appendOut_pix (s : State) (b : Byte) : (s.appendOut b).pix = s.pix := rfl
@[simp] theorem State.appendOut_host (s : State) (b : Byte) : (s.appendOut b).host = s.host := rfl
@[simp] theorem State.appendOut_sink (s : State) (b : Byte) : (s.appendOut b).sink = s.sink := rfl
@[simp] theorem State.appendOut_draws (s : State) (b : Byte) : (s.appendOut b).draws = s.draws := rfl
@[simp] theorem State.appendOut_detected (s : State) (b : Byte) : (s.appendOut b).detected = s.detected := rfl
@[simp] theorem State.appendOut_classified (s : State) (b : Byte) : (s.appendOut b).classified = s.classified := rfl

/-! `State.holdNibble` -/

@[simp] theorem State.holdNibble_phase (s : State) (u : Nibble) : (s.holdNibble u).phase = s.phase := rfl
@[simp] theorem State.holdNibble_err (s : State) (u : Nibble) : (s.holdNibble u).err = s.err := rfl
@[simp] theorem State.holdNibble_dlen (s : State) (u : Nibble) : (s.holdNibble u).dlen = s.dlen := rfl
@[simp] theorem State.holdNibble_sp (s : State) (u : Nibble) : (s.holdNibble u).sp = s.sp := rfl
@[simp] theorem State.holdNibble_nibValid (s : State) (u : Nibble) : (s.holdNibble u).nibValid = true := rfl
@[simp] theorem State.holdNibble_nibHold (s : State) (u : Nibble) : (s.holdNibble u).nibHold = u := rfl
@[simp] theorem State.holdNibble_out (s : State) (u : Nibble) : (s.holdNibble u).out = s.out := rfl
@[simp] theorem State.holdNibble_cfg (s : State) (u : Nibble) : (s.holdNibble u).cfg = s.cfg := rfl
@[simp] theorem State.holdNibble_pix (s : State) (u : Nibble) : (s.holdNibble u).pix = s.pix := rfl
@[simp] theorem State.holdNibble_host (s : State) (u : Nibble) : (s.holdNibble u).host = s.host := rfl
@[simp] theorem State.holdNibble_sink (s : State) (u : Nibble) : (s.holdNibble u).sink = s.sink := rfl
@[simp] theorem State.holdNibble_draws (s : State) (u : Nibble) : (s.holdNibble u).draws = s.draws := rfl
@[simp] theorem State.holdNibble_detected (s : State) (u : Nibble) : (s.holdNibble u).detected = s.detected := rfl
@[simp] theorem State.holdNibble_classified (s : State) (u : Nibble) : (s.holdNibble u).classified = s.classified := rfl

/-! `State.clearNibble` -/

@[simp] theorem State.clearNibble_phase (s : State) : s.clearNibble.phase = s.phase := rfl
@[simp] theorem State.clearNibble_err (s : State) : s.clearNibble.err = s.err := rfl
@[simp] theorem State.clearNibble_dlen (s : State) : s.clearNibble.dlen = s.dlen := rfl
@[simp] theorem State.clearNibble_sp (s : State) : s.clearNibble.sp = s.sp := rfl
@[simp] theorem State.clearNibble_nibValid (s : State) : s.clearNibble.nibValid = false := rfl
@[simp] theorem State.clearNibble_nibHold (s : State) : s.clearNibble.nibHold = 0#4 := rfl
@[simp] theorem State.clearNibble_out (s : State) : s.clearNibble.out = s.out := rfl
@[simp] theorem State.clearNibble_cfg (s : State) : s.clearNibble.cfg = s.cfg := rfl
@[simp] theorem State.clearNibble_pix (s : State) : s.clearNibble.pix = s.pix := rfl
@[simp] theorem State.clearNibble_host (s : State) : s.clearNibble.host = s.host := rfl
@[simp] theorem State.clearNibble_sink (s : State) : s.clearNibble.sink = s.sink := rfl
@[simp] theorem State.clearNibble_draws (s : State) : s.clearNibble.draws = s.draws := rfl
@[simp] theorem State.clearNibble_detected (s : State) : s.clearNibble.detected = s.detected := rfl
@[simp] theorem State.clearNibble_classified (s : State) : s.clearNibble.classified = s.classified := rfl

/-! `State.advance` -/

@[simp] theorem State.advance_phase (s : State) (n : Nat) : (s.advance n).phase = s.phase := rfl
@[simp] theorem State.advance_err (s : State) (n : Nat) : (s.advance n).err = s.err := rfl
@[simp] theorem State.advance_dlen (s : State) (n : Nat) : (s.advance n).dlen = s.dlen := rfl
@[simp] theorem State.advance_sp (s : State) (n : Nat) : (s.advance n).sp = s.sp + n := rfl
@[simp] theorem State.advance_nibValid (s : State) (n : Nat) : (s.advance n).nibValid = s.nibValid := rfl
@[simp] theorem State.advance_nibHold (s : State) (n : Nat) : (s.advance n).nibHold = s.nibHold := rfl
@[simp] theorem State.advance_out (s : State) (n : Nat) : (s.advance n).out = s.out := rfl
@[simp] theorem State.advance_cfg (s : State) (n : Nat) : (s.advance n).cfg = s.cfg := rfl
@[simp] theorem State.advance_pix (s : State) (n : Nat) : (s.advance n).pix = s.pix := rfl
@[simp] theorem State.advance_host (s : State) (n : Nat) : (s.advance n).host = s.host := rfl
@[simp] theorem State.advance_sink (s : State) (n : Nat) : (s.advance n).sink = s.sink := rfl
@[simp] theorem State.advance_draws (s : State) (n : Nat) : (s.advance n).draws = s.draws := rfl
@[simp] theorem State.advance_detected (s : State) (n : Nat) : (s.advance n).detected = s.detected := rfl
@[simp] theorem State.advance_classified (s : State) (n : Nat) : (s.advance n).classified = s.classified := rfl

/-! `State.setPhase` -/

@[simp] theorem State.setPhase_phase (s : State) (p : Phase) : (s.setPhase p).phase = p := rfl
@[simp] theorem State.setPhase_err (s : State) (p : Phase) : (s.setPhase p).err = s.err := rfl
@[simp] theorem State.setPhase_dlen (s : State) (p : Phase) : (s.setPhase p).dlen = s.dlen := rfl
@[simp] theorem State.setPhase_sp (s : State) (p : Phase) : (s.setPhase p).sp = s.sp := rfl
@[simp] theorem State.setPhase_nibValid (s : State) (p : Phase) : (s.setPhase p).nibValid = s.nibValid := rfl
@[simp] theorem State.setPhase_nibHold (s : State) (p : Phase) : (s.setPhase p).nibHold = s.nibHold := rfl
@[simp] theorem State.setPhase_out (s : State) (p : Phase) : (s.setPhase p).out = s.out := rfl
@[simp] theorem State.setPhase_cfg (s : State) (p : Phase) : (s.setPhase p).cfg = s.cfg := rfl
@[simp] theorem State.setPhase_pix (s : State) (p : Phase) : (s.setPhase p).pix = s.pix := rfl
@[simp] theorem State.setPhase_host (s : State) (p : Phase) : (s.setPhase p).host = s.host := rfl
@[simp] theorem State.setPhase_sink (s : State) (p : Phase) : (s.setPhase p).sink = s.sink := rfl
@[simp] theorem State.setPhase_draws (s : State) (p : Phase) : (s.setPhase p).draws = s.draws := rfl
@[simp] theorem State.setPhase_detected (s : State) (p : Phase) : (s.setPhase p).detected = s.detected := rfl
@[simp] theorem State.setPhase_classified (s : State) (p : Phase) : (s.setPhase p).classified = s.classified := rfl

/-! `State.beginRun` -/

@[simp] theorem State.beginRun_phase (s : State) (d : Nat) : (s.beginRun d).phase = .running := rfl
@[simp] theorem State.beginRun_err (s : State) (d : Nat) : (s.beginRun d).err = .none := rfl
@[simp] theorem State.beginRun_dlen (s : State) (d : Nat) : (s.beginRun d).dlen = d := rfl
@[simp] theorem State.beginRun_sp (s : State) (d : Nat) : (s.beginRun d).sp = 0 := rfl
@[simp] theorem State.beginRun_nibValid (s : State) (d : Nat) : (s.beginRun d).nibValid = false := rfl
@[simp] theorem State.beginRun_nibHold (s : State) (d : Nat) : (s.beginRun d).nibHold = 0#4 := rfl
@[simp] theorem State.beginRun_out (s : State) (d : Nat) : (s.beginRun d).out = [] := rfl
@[simp] theorem State.beginRun_cfg (s : State) (d : Nat) : (s.beginRun d).cfg = s.cfg := rfl
@[simp] theorem State.beginRun_pix (s : State) (d : Nat) : (s.beginRun d).pix = s.pix := rfl
@[simp] theorem State.beginRun_host (s : State) (d : Nat) : (s.beginRun d).host = s.host := rfl
@[simp] theorem State.beginRun_sink (s : State) (d : Nat) : (s.beginRun d).sink = s.sink := rfl
@[simp] theorem State.beginRun_draws (s : State) (d : Nat) : (s.beginRun d).draws = s.draws := rfl
@[simp] theorem State.beginRun_detected (s : State) (d : Nat) : (s.beginRun d).detected = s.detected := rfl
@[simp] theorem State.beginRun_classified (s : State) (d : Nat) : (s.beginRun d).classified = s.classified := rfl

/-! `State.resetRegs` -/

@[simp] theorem State.resetRegs_phase (s : State) : s.resetRegs.phase = .idle := rfl
@[simp] theorem State.resetRegs_err (s : State) : s.resetRegs.err = .none := rfl
@[simp] theorem State.resetRegs_dlen (s : State) : s.resetRegs.dlen = 0 := rfl
@[simp] theorem State.resetRegs_sp (s : State) : s.resetRegs.sp = 0 := rfl
@[simp] theorem State.resetRegs_nibValid (s : State) : s.resetRegs.nibValid = false := rfl
@[simp] theorem State.resetRegs_nibHold (s : State) : s.resetRegs.nibHold = 0#4 := rfl
@[simp] theorem State.resetRegs_out (s : State) : s.resetRegs.out = [] := rfl
@[simp] theorem State.resetRegs_cfg (s : State) : s.resetRegs.cfg = s.cfg := rfl
@[simp] theorem State.resetRegs_pix (s : State) : s.resetRegs.pix = s.pix := rfl
@[simp] theorem State.resetRegs_host (s : State) : s.resetRegs.host = s.host := rfl
@[simp] theorem State.resetRegs_sink (s : State) : s.resetRegs.sink = s.sink := rfl
@[simp] theorem State.resetRegs_draws (s : State) : s.resetRegs.draws = s.draws := rfl
@[simp] theorem State.resetRegs_detected (s : State) : s.resetRegs.detected = s.detected := rfl
@[simp] theorem State.resetRegs_classified (s : State) : s.resetRegs.classified = s.classified := rfl

/-! `State.setDetected` -/

@[simp] theorem State.setDetected_phase (s : State) (r : Run) : (s.setDetected r).phase = s.phase := rfl
@[simp] theorem State.setDetected_err (s : State) (r : Run) : (s.setDetected r).err = s.err := rfl
@[simp] theorem State.setDetected_dlen (s : State) (r : Run) : (s.setDetected r).dlen = s.dlen := rfl
@[simp] theorem State.setDetected_sp (s : State) (r : Run) : (s.setDetected r).sp = s.sp := rfl
@[simp] theorem State.setDetected_nibValid (s : State) (r : Run) : (s.setDetected r).nibValid = s.nibValid := rfl
@[simp] theorem State.setDetected_nibHold (s : State) (r : Run) : (s.setDetected r).nibHold = s.nibHold := rfl
@[simp] theorem State.setDetected_out (s : State) (r : Run) : (s.setDetected r).out = s.out := rfl
@[simp] theorem State.setDetected_cfg (s : State) (r : Run) : (s.setDetected r).cfg = s.cfg := rfl
@[simp] theorem State.setDetected_pix (s : State) (r : Run) : (s.setDetected r).pix = s.pix := rfl
@[simp] theorem State.setDetected_host (s : State) (r : Run) : (s.setDetected r).host = s.host := rfl
@[simp] theorem State.setDetected_sink (s : State) (r : Run) : (s.setDetected r).sink = s.sink := rfl
@[simp] theorem State.setDetected_draws (s : State) (r : Run) : (s.setDetected r).draws = s.draws := rfl
@[simp] theorem State.setDetected_detected (s : State) (r : Run) : (s.setDetected r).detected = some r := rfl
@[simp] theorem State.setDetected_classified (s : State) (r : Run) : (s.setDetected r).classified = s.classified := rfl

/-! `State.setClassified` -/

@[simp] theorem State.setClassified_phase (s : State) (u : Instr) : (s.setClassified u).phase = s.phase := rfl
@[simp] theorem State.setClassified_err (s : State) (u : Instr) : (s.setClassified u).err = s.err := rfl
@[simp] theorem State.setClassified_dlen (s : State) (u : Instr) : (s.setClassified u).dlen = s.dlen := rfl
@[simp] theorem State.setClassified_sp (s : State) (u : Instr) : (s.setClassified u).sp = s.sp := rfl
@[simp] theorem State.setClassified_nibValid (s : State) (u : Instr) : (s.setClassified u).nibValid = s.nibValid := rfl
@[simp] theorem State.setClassified_nibHold (s : State) (u : Instr) : (s.setClassified u).nibHold = s.nibHold := rfl
@[simp] theorem State.setClassified_out (s : State) (u : Instr) : (s.setClassified u).out = s.out := rfl
@[simp] theorem State.setClassified_cfg (s : State) (u : Instr) : (s.setClassified u).cfg = s.cfg := rfl
@[simp] theorem State.setClassified_pix (s : State) (u : Instr) : (s.setClassified u).pix = s.pix := rfl
@[simp] theorem State.setClassified_host (s : State) (u : Instr) : (s.setClassified u).host = s.host := rfl
@[simp] theorem State.setClassified_sink (s : State) (u : Instr) : (s.setClassified u).sink = s.sink := rfl
@[simp] theorem State.setClassified_draws (s : State) (u : Instr) : (s.setClassified u).draws = s.draws := rfl
@[simp] theorem State.setClassified_detected (s : State) (u : Instr) : (s.setClassified u).detected = s.detected := rfl
@[simp] theorem State.setClassified_classified (s : State) (u : Instr) : (s.setClassified u).classified = some u := rfl

/-! `State.raiseError` -/

@[simp] theorem State.raiseError_phase (s t : State) (e : ErrCode) : (s.raiseError t e).phase = .error := rfl
@[simp] theorem State.raiseError_err (s t : State) (e : ErrCode) : (s.raiseError t e).err = e := rfl
@[simp] theorem State.raiseError_dlen (s t : State) (e : ErrCode) : (s.raiseError t e).dlen = s.dlen := rfl
@[simp] theorem State.raiseError_sp (s t : State) (e : ErrCode) : (s.raiseError t e).sp = s.sp := rfl
@[simp] theorem State.raiseError_nibValid (s t : State) (e : ErrCode) : (s.raiseError t e).nibValid = s.nibValid := rfl
@[simp] theorem State.raiseError_nibHold (s t : State) (e : ErrCode) : (s.raiseError t e).nibHold = s.nibHold := rfl
@[simp] theorem State.raiseError_out (s t : State) (e : ErrCode) : (s.raiseError t e).out = s.out := rfl
@[simp] theorem State.raiseError_cfg (s t : State) (e : ErrCode) : (s.raiseError t e).cfg = s.cfg := rfl
@[simp] theorem State.raiseError_pix (s t : State) (e : ErrCode) : (s.raiseError t e).pix = s.pix := rfl
@[simp] theorem State.raiseError_host (s t : State) (e : ErrCode) : (s.raiseError t e).host = s.host := rfl
@[simp] theorem State.raiseError_sink (s t : State) (e : ErrCode) : (s.raiseError t e).sink = t.sink := rfl
@[simp] theorem State.raiseError_draws (s t : State) (e : ErrCode) : (s.raiseError t e).draws = t.draws := rfl
@[simp] theorem State.raiseError_detected (s t : State) (e : ErrCode) : (s.raiseError t e).detected = s.detected := rfl
@[simp] theorem State.raiseError_classified (s t : State) (e : ErrCode) : (s.raiseError t e).classified = s.classified := rfl

end Sys2Proof.Machine
end

