-- ==== Sys2Proof/Laws/Packing.lean ====
section
/-!
SUPPORT. What the sink, `emit` and a unit's emission can do, each said once.
-/
namespace Sys2Proof.Machine

/-- A byte's two nibbles are the ones it was packed from. -/
theorem byteNibbles_packByte (hi lo : Nibble) : byteNibbles (packByte hi lo) = [hi, lo] := by
  revert hi lo; decide

@[simp] theorem State.sinkAnswer_holdNibble (s : State) (u : Nibble) : (s.holdNibble u).sinkAnswer = s.sinkAnswer := rfl

theorem State.sinkWrite_accept {s : State} (h : s.sinkAnswer = .accept) (b : Byte) :
    s.sinkWrite b = (.accept, s.takeAnswer.appendOut b) := by simp [State.sinkWrite, h]

theorem State.sinkWrite_reject {s : State} (h : s.sinkAnswer = .reject) (b : Byte) :
    s.sinkWrite b = (.reject, s.takeAnswer) := by simp [State.sinkWrite, h]

theorem State.emit_empty {s : State} (h : s.nibValid = false) (u : Nibble) : s.emit u = .ok (s.holdNibble u) := by
  simp [State.emit, h]

theorem State.emit_accept {s : State} (h : s.nibValid = true) (ha : s.sinkAnswer = .accept) (u : Nibble) :
    s.emit u = .ok (s.takeAnswer.appendOut (packByte s.nibHold u)).clearNibble := by
  simp [State.emit, h, State.sinkWrite_accept ha]

theorem State.emit_reject {s : State} (h : s.nibValid = true) (ha : s.sinkAnswer = .reject) (u : Nibble) :
    s.emit u = .error s.takeAnswer := by
  simp [State.emit, h, State.sinkWrite_reject ha]

/-- Everything the emission of one nibble can do: hold it, complete a byte, or be rejected. -/
theorem State.emitAll_one (s : State) (a : Nibble) :
    (s.nibValid = false ∧ s.emitAll [a] = .ok (s.holdNibble a)) ∨
    (s.nibValid = true ∧ s.sinkAnswer = .accept ∧
      s.emitAll [a] = .ok (s.takeAnswer.appendOut (packByte s.nibHold a)).clearNibble) ∨
    (s.nibValid = true ∧ s.sinkAnswer = .reject ∧ s.emitAll [a] = .error s.takeAnswer) := by
  cases hv : s.nibValid
  · exact .inl ⟨rfl, by simp [State.emitAll, State.emit_empty hv]⟩
  · cases ha : s.sinkAnswer
    · exact .inr (.inl ⟨rfl, rfl, by simp [State.emitAll, State.emit_accept hv ha]⟩)
    · exact .inr (.inr ⟨rfl, rfl, by simp [State.emitAll, State.emit_reject hv ha]⟩)

/-- Everything the emission of two nibbles can do: one byte is offered, whether the buffer was empty or not. -/
theorem State.emitAll_two (s : State) (a b : Nibble) :
    (s.nibValid = false ∧ s.sinkAnswer = .accept ∧
      s.emitAll [a, b] = .ok ((s.holdNibble a).takeAnswer.appendOut (packByte a b)).clearNibble) ∨
    (s.nibValid = true ∧ s.sinkAnswer = .accept ∧
      s.emitAll [a, b] = .ok (((s.takeAnswer.appendOut (packByte s.nibHold a)).clearNibble).holdNibble b)) ∨
    (s.sinkAnswer = .reject ∧ ∃ t, s.emitAll [a, b] = .error t ∧ t.sink = s.sink.tail ∧ t.draws = s.draws + 1) := by
  cases hv : s.nibValid <;> cases ha : s.sinkAnswer
  · refine .inl ⟨rfl, rfl, ?_⟩
    have h2 : (s.holdNibble a).sinkAnswer = .accept := ha
    simp [State.emitAll, State.emit_empty hv, State.emit_accept (s := s.holdNibble a) rfl h2]
  · refine .inr (.inr ⟨rfl, (s.holdNibble a).takeAnswer, ?_, rfl, rfl⟩)
    have h2 : (s.holdNibble a).sinkAnswer = .reject := ha
    simp [State.emitAll, State.emit_empty hv, State.emit_reject (s := s.holdNibble a) rfl h2]
  · refine .inr (.inl ⟨rfl, rfl, ?_⟩)
    simp [State.emitAll, State.emit_accept hv ha,
      State.emit_empty (s := (s.takeAnswer.appendOut (packByte s.nibHold a)).clearNibble) rfl]
  · refine .inr (.inr ⟨rfl, s.takeAnswer, ?_, rfl, rfl⟩)
    simp [State.emitAll, State.emit_reject hv ha]

/-- Everything a unit's share of a STEP can do, for a unit of one nibble. -/
theorem State.runUnit_one (s : State) {u : Instr} {a : Nibble} (he : encode u = [a]) :
    (s.nibValid = false ∧ s.runUnit u = (s.holdNibble a).advance u.pixels) ∨
    (s.nibValid = true ∧ s.sinkAnswer = .accept ∧
      s.runUnit u = (s.takeAnswer.appendOut (packByte s.nibHold a)).clearNibble.advance u.pixels) ∨
    (s.nibValid = true ∧ s.sinkAnswer = .reject ∧ s.runUnit u = s.raiseError s.takeAnswer .outputWriteFailure) := by
  rcases s.emitAll_one a with ⟨hv, h⟩ | ⟨hv, ha, h⟩ | ⟨hv, ha, h⟩
  · exact .inl ⟨hv, by simp [State.runUnit, he, h]⟩
  · exact .inr (.inl ⟨hv, ha, by simp [State.runUnit, he, h]⟩)
  · exact .inr (.inr ⟨hv, ha, by simp [State.runUnit, he, h]⟩)

/-- Everything a unit's share of a STEP can do, for a unit of two nibbles. -/
theorem State.runUnit_two (s : State) {u : Instr} {a b : Nibble} (he : encode u = [a, b]) :
    (s.nibValid = false ∧ s.sinkAnswer = .accept ∧
      s.runUnit u = ((s.holdNibble a).takeAnswer.appendOut (packByte a b)).clearNibble.advance u.pixels) ∨
    (s.nibValid = true ∧ s.sinkAnswer = .accept ∧
      s.runUnit u =
        ((s.takeAnswer.appendOut (packByte s.nibHold a)).clearNibble.holdNibble b).advance u.pixels) ∨
    (s.sinkAnswer = .reject ∧ s.runUnit u = s.raiseError s.takeAnswer .outputWriteFailure) := by
  rcases s.emitAll_two a b with ⟨hv, ha, h⟩ | ⟨hv, ha, h⟩ | ⟨ha, t, h, hs, hd⟩
  · exact .inl ⟨hv, ha, by simp [State.runUnit, he, h]⟩
  · exact .inr (.inl ⟨hv, ha, by simp [State.runUnit, he, h]⟩)
  · refine .inr (.inr ⟨ha, ?_⟩)
    simp [State.runUnit, he, h, State.raiseError, hs, hd]

end Sys2Proof.Machine
end

