-- ==== Sys2Proof/Laws/Control.lean ====
section
/-!
SUPPORT. What the selector, START, FINALIZE and one step of the machine can do, each said once.
-/
namespace Sys2Proof.Machine

/-- Everything START can do in IDLE (R102): one of the four checks raises its error, in R204's order, or the run begins. -/
theorem State.start_cases (s : State) (w h : Int) :
    ((w = 0 ∨ h = 0) ∧ s.start w h = s.raiseError s .emptyInput) ∨
    (¬(w = 0 ∨ h = 0) ∧ (w < 0 ∨ h < 0 ∨ (2 : Int) ^ s.cfg.lenW - 1 < w * h ∨ (s.cfg.arrLen : Int) < w * h) ∧
      s.start w h = s.raiseError s .invalidDimensions) ∨
    (0 < w ∧ 0 < h ∧ w * h ≤ (2 : Int) ^ s.cfg.lenW - 1 ∧ w * h ≤ (s.cfg.arrLen : Int) ∧
      s.start w h = s.beginRun (w * h).toNat) := by
  unfold State.start
  split
  · exact .inl ⟨‹_›, rfl⟩
  · split
    · exact .inr (.inl ⟨‹_›, by omega, rfl⟩)
    · split
      · exact .inr (.inl ⟨‹_›, .inr (.inr (.inl ‹_›)), rfl⟩)
      · split
        · exact .inr (.inl ⟨‹_›, .inr (.inr (.inr ‹_›)), rfl⟩)
        · exact .inr (.inr ⟨by omega, by omega, Int.not_lt.mp ‹_›, Int.not_lt.mp ‹_›, rfl⟩)

/-- Everything FINALIZE can do (R172). -/
theorem State.finalize_cases (s : State) :
    (s.nibValid = false ∧ s.finalize = s.setPhase .done) ∨
    (s.nibValid = true ∧ s.sinkAnswer = .accept ∧
      s.finalize = (s.takeAnswer.appendOut (packByte s.nibHold 0#4)).clearNibble.setPhase .done) ∨
    (s.nibValid = true ∧ s.sinkAnswer = .reject ∧ s.finalize = s.raiseError s.takeAnswer .outputWriteFailure) := by
  cases hv : s.nibValid
  · exact .inl ⟨rfl, by simp [State.finalize, hv]⟩
  · cases ha : s.sinkAnswer
    · exact .inr (.inl ⟨rfl, rfl, by simp [State.finalize, hv, State.sinkWrite_accept ha]⟩)
    · exact .inr (.inr ⟨rfl, rfl, by simp [State.finalize, hv, State.sinkWrite_reject ha]⟩)

/-- The selected unit where STEP is enabled and DETECT answers. -/
theorem State.selectedUnit_of_detect {s : State} {r : Run} (h : s.stepEnabled) (hd : s.detect = .ok r) :
    s.selectedUnit = .ok (some (classify r.colour r.length)) := by
  simp [State.selectedUnit, h.1, h.2, hd]

theorem State.selectedUnit_of_disabled {s : State} (h : ¬ s.stepEnabled) : s.selectedUnit = .ok none := by
  simp only [State.selectedUnit, if_neg h]

theorem decodeCommand_none_iff (c : BitVec 2) : decodeCommand c = .none ↔ c = 0#2 := by revert c; decide

theorem decodeCommand_start_iff (c : BitVec 2) : decodeCommand c = .start ↔ c = 1#2 := by revert c; decide

/-- Everything one step can do when it answers a next state: RESET, START, STEP, FINALIZE, or nothing but the host's levels
moving on. -/
theorem step_cases {s t : State} (h : step s = .next t) :
    (s.ports.rst = true ∧ t = s.resetRegs.advanceHost) ∨
    (s.ports.rst = false ∧ s.phase = .idle ∧ s.ports.cmd = 1#2 ∧
      t = (s.start (dimension s.cfg s.ports.cfgWidth) (dimension s.cfg s.ports.cfgHeight)).advanceHost) ∨
    (s.ports.rst = false ∧ s.ports.cmd = 0#2 ∧ s.stepEnabled ∧
      ∃ r, s.detect = .ok r ∧ t = (s.runUnit (classify r.colour r.length)).advanceHost) ∨
    (s.ports.rst = false ∧ s.ports.cmd = 0#2 ∧ s.finalizeEnabled ∧ t = s.finalize.advanceHost) ∨
    (s.ports.rst = false ∧ s.ports.cmd = 0#2 ∧ ¬ s.stepEnabled ∧ ¬ s.finalizeEnabled ∧ t = s.advanceHost) := by
  cases hr : s.ports.rst with
  | true =>
    simp only [step, State.select, hr, if_true, exec, execReset, moveOn] at h
    exact .inl ⟨rfl, (by injection h with h; exact h.symm)⟩
  | false =>
    simp only [step, State.select, hr] at h
    cases hc : decodeCommand s.ports.cmd with
    | reserved c => simp [hc] at h
    | start =>
      by_cases hp : s.phase = .idle
      · simp only [hc, if_pos hp, exec, execStart, moveOn, Bool.false_eq_true, if_false] at h
        exact .inr (.inl ⟨rfl, hp, (decodeCommand_start_iff _).mp hc, (by injection h with h; exact h.symm)⟩)
      · simp [hc, hp] at h
    | none =>
      have hcmd := (decodeCommand_none_iff _).mp hc
      by_cases he : s.stepEnabled
      · simp only [hc, if_pos he, exec, execStep, Bool.false_eq_true, if_false] at h
        cases hd : s.detect with
        | error f => simp [State.selectedUnit, if_pos he, hd, moveOn] at h
        | ok r =>
          simp only [State.selectedUnit_of_detect he hd, moveOn] at h
          exact .inr (.inr (.inl ⟨rfl, hcmd, he, r, rfl, (by injection h with h; exact h.symm)⟩))
      · by_cases hf : s.finalizeEnabled
        · simp only [hc, if_neg he, if_pos hf, exec, execFinalize, moveOn, Bool.false_eq_true, if_false] at h
          exact .inr (.inr (.inr (.inl ⟨rfl, hcmd, hf, (by injection h with h; exact h.symm)⟩)))
        · simp only [hc, if_neg he, if_neg hf, Bool.false_eq_true, if_false] at h
          exact .inr (.inr (.inr (.inr ⟨rfl, hcmd, he, hf, (by injection h with h; exact h.symm)⟩)))

end Sys2Proof.Machine
end

