-- ==== Sys2Proof/Laws/Memory.lean ====
section
/-!
SUPPORT. The laws of the pixel memory: a read after a write, and that every operation keeps the canonical form.
-/
namespace Sys2Proof.Machine

theorem Memory.read_of_below {m : Memory} {i : Nat} (h : ∀ p ∈ m, i < p.1) : Memory.read m i = Memory.unlisted := by
  induction m with
  | nil => rfl
  | cons p m ih =>
    obtain ⟨a, x⟩ := p
    have ha : i < a := h (a, x) (by simp)
    have hne : ¬ i = a := by omega
    simp only [Memory.read, if_neg hne]
    exact ih fun q hq => h q (by simp [hq])

theorem Memory.write_bound {m : Memory} {i k : Nat} {b : Byte} (hm : ∀ p ∈ m, k < p.1) (hi : k < i) :
    ∀ p ∈ Memory.write m i b, k < p.1 := by
  induction m with
  | nil =>
    intro p hp
    simp only [Memory.write] at hp
    split at hp <;> simp at hp
    subst hp; exact hi
  | cons q m ih =>
    obtain ⟨a, x⟩ := q
    have ha : k < a := hm (a, x) (by simp)
    have hm' : ∀ p ∈ m, k < p.1 := fun p hp => hm p (by simp [hp])
    intro p hp
    simp only [Memory.write] at hp
    split at hp
    · split at hp <;> simp at hp
      · rcases hp with rfl | hp
        · exact ha
        · exact hm' p hp
      · rcases hp with rfl | rfl | hp
        · exact hi
        · exact ha
        · exact hm' p hp
    · split at hp
      · split at hp
        · exact hm' p hp
        · simp at hp
          rcases hp with rfl | hp
          · exact hi
          · exact hm' p hp
      · simp at hp
        rcases hp with rfl | hp
        · exact ha
        · exact ih hm' p hp

/-- A write keeps the canonical form. -/
theorem Memory.write_wf {m : Memory} (h : Memory.wf m) (i : Nat) (b : Byte) : Memory.wf (Memory.write m i b) := by
  induction m with
  | nil => by_cases hb : b = Memory.unlisted <;> simp [Memory.write, Memory.wf, hb]
  | cons q m ih =>
    obtain ⟨a, x⟩ := q
    obtain ⟨hs, hv⟩ := h
    have hrest := List.pairwise_cons.mp hs
    have hm : Memory.wf m := ⟨hrest.2, fun p hp => hv p (by simp [hp])⟩
    have hx : x ≠ Memory.unlisted := hv (a, x) (by simp)
    have hab : ∀ p ∈ m, a < p.1 := hrest.1
    simp only [Memory.write]
    split
    · rename_i hia
      split
      · exact ⟨hs, hv⟩
      · rename_i hb
        refine ⟨List.pairwise_cons.mpr ⟨?_, hs⟩, ?_⟩
        · intro p hp
          rcases List.mem_cons.mp hp with rfl | hp
          · exact hia
          · exact Nat.lt_trans hia (hab p hp)
        · intro p hp
          rcases List.mem_cons.mp hp with rfl | hp
          · exact hb
          · exact hv p hp
    · split
      · rename_i hia
        subst hia
        split
        · exact hm
        · rename_i hb
          refine ⟨List.pairwise_cons.mpr ⟨hab, hm.1⟩, ?_⟩
          intro p hp
          rcases List.mem_cons.mp hp with rfl | hp
          · exact hb
          · exact hm.2 p hp
      · rename_i h1 h2
        have hlt : a < i := by omega
        have hw := ih hm
        refine ⟨List.pairwise_cons.mpr ⟨Memory.write_bound hab hlt, hw.1⟩, ?_⟩
        intro p hp
        rcases List.mem_cons.mp hp with rfl | hp
        · exact hx
        · exact hw.2 p hp

/-- A read after a write to the same index gives the byte written. -/
theorem Memory.read_write_same {m : Memory} (h : Memory.wf m) (i : Nat) (b : Byte) :
    Memory.read (Memory.write m i b) i = b := by
  induction m with
  | nil => by_cases hb : b = Memory.unlisted <;> simp [Memory.write, Memory.read, hb]
  | cons q m ih =>
    obtain ⟨a, x⟩ := q
    have hrest := List.pairwise_cons.mp h.1
    have hm : Memory.wf m := ⟨hrest.2, fun p hp => h.2 p (by simp [hp])⟩
    simp only [Memory.write]
    split
    · rename_i hia
      split
      · rename_i hb
        subst hb
        refine Memory.read_of_below fun p hp => ?_
        rcases List.mem_cons.mp hp with rfl | hp
        · exact hia
        · exact Nat.lt_trans hia (hrest.1 p hp)
      · simp [Memory.read]
    · split
      · rename_i hia
        subst hia
        split
        · rename_i hb
          subst hb
          exact Memory.read_of_below fun p hp => hrest.1 p hp
        · simp [Memory.read]
      · rename_i h1 h2
        simp only [Memory.read, if_neg h2]
        exact ih hm

/-- A write leaves every other index alone. -/
theorem Memory.read_write_other {m : Memory} {i j : Nat} (hij : j ≠ i) (b : Byte) :
    Memory.read (Memory.write m i b) j = Memory.read m j := by
  induction m with
  | nil => by_cases hb : b = Memory.unlisted <;> simp [Memory.write, Memory.read, hb, hij]
  | cons q m ih =>
    obtain ⟨a, x⟩ := q
    simp only [Memory.write]
    split
    · split
      · rfl
      · simp [Memory.read, hij]
    · split
      · rename_i hia
        subst hia
        split <;> simp [Memory.read, hij]
      · simp only [Memory.read, ih]

theorem Memory.fill_wf {m : Memory} (h : Memory.wf m) (b : Byte) (n : Nat) : Memory.wf (Memory.fill b n m) := by
  induction n with
  | zero => exact h
  | succ n ih => exact Memory.write_wf ih n b

/-- After a fill, every filled index holds the byte. -/
theorem Memory.read_fill {m : Memory} (h : Memory.wf m) (b : Byte) {n i : Nat} (hi : i < n) :
    Memory.read (Memory.fill b n m) i = b := by
  induction n with
  | zero => omega
  | succ n ih =>
    simp only [Memory.fill]
    by_cases hin : i = n
    · subst hin; exact Memory.read_write_same (Memory.fill_wf h b i) i b
    · rw [Memory.read_write_other hin]; exact ih (by omega)

theorem Memory.load_wf (bs : List Byte) : ∀ (i : Nat) {m : Memory}, Memory.wf m → Memory.wf (Memory.load bs i m) := by
  induction bs with
  | nil => exact fun _ _ h => h
  | cons b bs ih => exact fun i _ h => ih (i + 1) (Memory.write_wf h i b)

theorem Memory.wf_nil : Memory.wf [] := by simp [Memory.wf]

/-- The pixel memory after reset has the canonical form. -/
theorem State.reset_pix_wf : Memory.wf State.reset.pix := Memory.wf_nil

end Sys2Proof.Machine
end

