-- ==== Sys2Proof/Laws/PerInstr.lean ====
section
/-!
SUPPORT. Statements made per instruction: the family UnitWidth, about the width and the count of every row as syntax.
-/
namespace Sys2Proof.Laws.UnitWidth

/-- A well-formed unit has one or two nibbles, two exactly when its first nibble's count field is 0 (R70, R75), and stands
for 1 to 1024 pixels (R70); an operation has no encoding and stands for no pixel (R85). -/
def Statement (i : Instr) : Prop :=
  i.wellFormed = true →
    (i.isUnit = true ∧ 1 ≤ i.pixels ∧ i.pixels ≤ 1024 ∧
      ((∃ a, encode i = [a] ∧ nibbleCount a ≠ 0#2) ∨ (∃ a b, encode i = [a, b] ∧ nibbleCount a = 0#2))) ∨
    (i.isUnit = false ∧ encode i = [] ∧ i.pixels = 0)

theorem short1 (c : Colour) : Statement (.short1 c) := fun _ =>
  .inl ⟨rfl, by simp [Instr.pixels], by simp [Instr.pixels], .inl ⟨_, rfl, by revert c; decide⟩⟩

theorem short2 (c : Colour) : Statement (.short2 c) := fun _ =>
  .inl ⟨rfl, by simp [Instr.pixels], by simp [Instr.pixels], .inl ⟨_, rfl, by revert c; decide⟩⟩

theorem short3 (c : Colour) : Statement (.short3 c) := fun _ =>
  .inl ⟨rfl, by simp [Instr.pixels], by simp [Instr.pixels], .inl ⟨_, rfl, by revert c; decide⟩⟩

theorem esclit (c : Colour) (v : Nibble) : Statement (.esclit c v) := fun h => by
  have hv : 7 ≤ v.toNat := by simpa [Instr.wellFormed] using h
  have hlt := v.isLt
  exact .inl ⟨rfl, by simp [Instr.pixels]; omega, by simp [Instr.pixels]; omega,
    .inr ⟨_, _, rfl, (shortUnit_eq_none_iff _).mp (shortUnit_escape c).1⟩⟩

theorem escpow (c : Colour) (k : Nibble) : Statement (.escpow c k) := fun h => by
  have hk : k.toNat ≤ 6 := by simpa [Instr.wellFormed] using h
  have hb : ∀ j, j ≤ 6 → 1 ≤ 16 <<< j ∧ 16 <<< j ≤ 1024 := by decide
  exact .inl ⟨rfl, (hb _ hk).1, (hb _ hk).2,
    .inr ⟨_, _, rfl, (shortUnit_eq_none_iff _).mp (shortUnit_escape c).1⟩⟩

theorem reset : Statement .reset := fun _ => .inr ⟨rfl, rfl, rfl⟩

theorem start : Statement .start := fun _ => .inr ⟨rfl, rfl, rfl⟩

theorem step : Statement .step := fun _ => .inr ⟨rfl, rfl, rfl⟩

theorem finalize : Statement .finalize := fun _ => .inr ⟨rfl, rfl, rfl⟩

theorem detect : Statement .detect := fun _ => .inr ⟨rfl, rfl, rfl⟩

theorem classify (c : Colour) (len : Nat) : Statement (.classify c len) := fun _ => .inr ⟨rfl, rfl, rfl⟩

theorem emitNibble (u : Nibble) : Statement (.emitNibble u) := fun _ => .inr ⟨rfl, rfl, rfl⟩

end Sys2Proof.Laws.UnitWidth
end

