-- ==== Sys2Proof/Tests/Slice0.lean ====
section
/-!
SUPPORT. Tests whose expected results are the vectors of 95_test_vectors.md or hand calculation from the rules, and one
witness per obligation that its hypotheses can be met.
-/
namespace Sys2Proof.Tests
open Sys2Proof Sys2Proof.Machine

/-! Helpers. -/

/-- The state an outcome answers. -/
def nextOf : Host.Outcome State Fault Refusal → Option State
  | .next t => some t
  | .fault _ => none
  | .refused _ => none

/-- The refusal an outcome answers. -/
def refusalOf : Host.Outcome State Fault Refusal → Option Refusal
  | .next _ => none
  | .fault _ => none
  | .refused r => some r

/-- The registers an outcome answers. -/
def regsOf (o : Host.Outcome State Fault Refusal) : Option (Phase × ErrCode × Nat × Nat × Bool × Nibble × List Byte) :=
  (nextOf o).map State.registers

/-- A running state over these pixels, at this position, with this buffer and these coming sink answers. -/
def running (cmp : ColorCompare) (pixels : List Byte) (sp : Nat) (valid : Bool) (hold : Nibble)
    (sink : List SinkAnswer) : State :=
  { State.launch (Params.of 16 8 pixels.length cmp) pixels [] sink with
    phase := .running, dlen := pixels.length, sp := sp, nibValid := valid, nibHold := hold }

/-- `n` pixels of colour 1 from position 0. -/
def ones (n : Nat) (valid : Bool) (hold : Nibble) (sink : List SinkAnswer) : State :=
  running .masked (List.replicate n 1#8) 0 valid hold sink

/-- The state after reset with these parameters and the host at START with these dimensions (DIM_W = 8). -/
def starting (lenW arrLen w h : Nat) : State :=
  State.launch (Params.of lenW 8 arrLen .masked) [] [{ rst := false, cmd := 1#2, cfgWidth := w, cfgHeight := h }] []

/-- The same state with the host's levels in this step replaced. -/
def driven (s : State) (rst : Bool) (cmd : BitVec 2) : State :=
  { s with host := [{ rst := rst, cmd := cmd, cfgWidth := 0, cfgHeight := 0 }] }

/-! The checks of WellFormed. -/

theorem test_wellformed_refuses :
    (Instr.esclit 2#2 6#4).wellFormed = false ∧ (Instr.escpow 2#2 7#4).wellFormed = false ∧
    (Instr.classify 2#2 0).wellFormed = false := by decide

theorem test_wellformed_accepts :
    (Instr.esclit 2#2 7#4).wellFormed = true ∧ (Instr.escpow 2#2 6#4).wellFormed = true ∧
    (Instr.classify 2#2 1).wellFormed = true := by decide

/-! Decoding: words written out from R72, R73, R77, R78 and the table. -/

theorem test_decode_short1 : decodeUnit [0b0110#4] = .ok (.short1 2#2, []) := rfl
theorem test_decode_short2 : decodeUnit [0b1011#4] = .ok (.short2 3#2, []) := rfl
theorem test_decode_short3 : decodeUnit [0b1100#4] = .ok (.short3 0#2, []) := rfl
theorem test_decode_esclit : decodeUnit [0b0001#4, 0b0111#4] = .ok (.esclit 1#2 7#4, []) := rfl
theorem test_decode_escpow : decodeUnit [0b0011#4, 0b0110#4] = .ok (.escpow 3#2 6#4, []) := rfl

/-- R80: an escape nibble alone, and nothing at all. -/
theorem test_decode_errors :
    decodeUnit [0b0010#4] = .error (.loneEscape 2#4) ∧ decodeUnit [] = .error .endOfStream := ⟨rfl, rfl⟩

/-- W6: `07 18 60` is 7 pixels of 0, 8 of 1, one of 2, and padding; a stream cut after an escape is refused. -/
theorem test_decodeStream :
    decodeStream [0x07#8, 0x18#8, 0x60#8] =
      .ok (List.replicate 7 0#2 ++ List.replicate 8 1#2 ++ [2#2]) ∧
    decodeStream [0x41#8] = .error (.loneEscape 1#4) := ⟨rfl, rfl⟩

/-- The words of the opcode table's rows. -/
theorem test_table_words :
    decodeTableWord 8 0x4 = some (.short1 0#2) ∧ decodeTableWord 8 0x8 = some (.short2 0#2) ∧
    decodeTableWord 8 0xF = some (.short3 3#2) ∧ decodeTableWord 8 0x3F = some (.esclit 3#2 15#4) ∧
    decodeTableWord 8 0x00 = some (.escpow 0#2 0#4) ∧ decodeTableWord 8 0x36 = some (.escpow 3#2 6#4) := by decide

/-- From the state after reset, the next step after `withFetchWord` emits the row's unit (V-U2, V-U6). -/
theorem test_fetch_word :
    ((nextOf (step (State.reset.withFetchWord 8 0x8))).map fun t => (t.sp, t.nibValid, t.nibHold)) = some (2, true, 0x8#4) ∧
    ((nextOf (step (State.reset.withFetchWord 8 0x00))).map fun t => (t.sp, t.out)) = some (16, [0x00#8]) := ⟨rfl, rfl⟩

/-- R84, and RESET's input: the operations' ways in. -/
theorem test_ways_in :
    (starting 16 16 1 1).select = .operation .start ∧ (driven (starting 16 16 1 1) true 1#2).select = .operation .reset ∧
    (ones 1 false 0#4 []).select = .operation .step ∧ (running .masked [1#8] 1 true 0x5#4 []).select = .operation .finalize :=
  ⟨rfl, rfl, rfl, rfl⟩

/-! The instructions. -/

/-- V-S11 (`w*h = 2^LEN_W - 1` is accepted) and V-S2. -/
theorem test_start_accepts :
    regsOf (exec .start (starting 4 64 3 5)) = some (.running, .none, 15, 0, false, 0#4, []) ∧
    regsOf (exec .start (starting 16 16 4 4)) = some (.running, .none, 16, 0, false, 0#4, []) := ⟨rfl, rfl⟩

/-- V-S5, V-S7, V-S10, V-S12. -/
theorem test_start_checks :
    regsOf (exec .start (starting 16 16 0x00 0xFD)) = some (.error, .emptyInput, 0, 0, false, 0#4, []) ∧
    regsOf (exec .start (starting 16 16 0xFF 0xFF)) = some (.error, .invalidDimensions, 0, 0, false, 0#4, []) ∧
    regsOf (exec .start (starting 4 64 4 4)) = some (.error, .invalidDimensions, 0, 0, false, 0#4, []) ∧
    regsOf (exec .start (starting 16 16 5 4)) = some (.error, .invalidDimensions, 0, 0, false, 0#4, []) :=
  ⟨rfl, rfl, rfl, rfl⟩

/-- V-R1: the pending nibble is dropped. -/
theorem test_reset : regsOf (step (driven { ones 16 true 0xE#4 [] with sp := 5, out := [0x07#8] } true 0#2)) =
    some (.idle, .none, 0, 0, false, 0#4, []) := rfl

/-- V-D4a, V-D4b, V-D8a: the two comparisons. -/
theorem test_detect :
    (running .masked [1#8, 5#8] 0 false 0#4 []).detect = .ok { colour := 1#2, length := 2 } ∧
    (running .raw [1#8, 5#8] 0 false 0#4 []).detect = .ok { colour := 1#2, length := 1 } ∧
    (running .masked [0xFF#8, 0x03#8] 0 false 0#4 []).detect = .ok { colour := 3#2, length := 2 } := ⟨rfl, rfl, rfl⟩

/-- V-D3: the run is cut at DLEN, although PIX holds more of it. -/
theorem test_detect_cut :
    State.detect { running .masked [2#8, 2#8, 2#8, 2#8, 2#8] 0 false 0#4 [] with dlen := 3 } =
      .ok { colour := 2#2, length := 3 } := rfl

/-- V-C5, V-C10, V-C11, V-C25, V-C27. -/
theorem test_classify :
    classify 2#2 5 = .short3 2#2 ∧ classify 2#2 15 = .esclit 2#2 15#4 ∧ classify 2#2 16 = .escpow 2#2 0#4 ∧
    classify 2#2 1023 = .escpow 2#2 5#4 ∧ classify 2#2 1025 = .escpow 2#2 6#4 := by decide

/-- V-C30: 2100 pixels of one colour. -/
theorem test_run_listing : runListing 2#2 7 2100 =
    [.escpow 2#2 6#4, .escpow 2#2 6#4, .escpow 2#2 1#4, .escpow 2#2 0#4, .short3 2#2, .short1 2#2] := by decide

/-- V-E1, V-E2, V-E3. -/
theorem test_emit_nibble :
    regsOf (exec (.emitNibble 6#4) (ones 1 false 0#4 [])) = some (.running, .none, 1, 0, true, 6#4, []) ∧
    regsOf (exec (.emitNibble 1#4) (ones 1 true 4#4 [.accept])) = some (.running, .none, 1, 0, false, 0#4, [0x41#8]) ∧
    regsOf (exec (.emitNibble 1#4) (ones 1 true 4#4 [.reject])) =
      some (.error, .outputWriteFailure, 1, 0, true, 4#4, []) := ⟨rfl, rfl, rfl⟩

/-- V-F1, V-F2, V-F4. -/
theorem test_finalize :
    regsOf (exec .finalize (running .masked [1#8] 1 false 0#4 [])) = some (.done, .none, 1, 1, false, 0#4, []) ∧
    regsOf (exec .finalize (running .masked [1#8] 1 true 6#4 [.accept])) = some (.done, .none, 1, 1, false, 0#4, [0x60#8]) ∧
    regsOf (exec .finalize (running .masked [1#8] 1 true 6#4 [.reject])) =
      some (.error, .outputWriteFailure, 1, 1, true, 6#4, []) := ⟨rfl, rfl, rfl⟩

/-- P2's second STEP: an escape unit straddles two bytes (V-E6), and V-E7 its rejection. -/
theorem test_step :
    regsOf (exec .step (ones 16 true 4#4 [.accept])) = some (.running, .none, 16, 16, true, 0#4, [0x41#8]) ∧
    regsOf (exec .step (ones 16 true 4#4 [.reject])) = some (.error, .outputWriteFailure, 16, 0, true, 4#4, []) := ⟨rfl, rfl⟩

/-- W1's second STEP (90_conflicts.md C1): the two pixels left of a run of 5 give nibble A, so the byte is EA. -/
theorem test_step_splits_run_of_5 :
    regsOf (exec .step (running .masked [2#8, 2#8, 2#8, 2#8, 2#8] 3 true 0xE#4 [.accept])) =
      some (.running, .none, 5, 5, false, 0#4, [0xEA#8]) := rfl

/-- V-U1: SHORT1 alone; where the run is longer it is not selected. -/
theorem test_short1 :
    regsOf (exec (.short1 1#2) (ones 1 false 0#4 [])) = some (.running, .none, 1, 1, true, 0x5#4, []) ∧
    regsOf (exec (.short1 1#2) (ones 2 false 0#4 [])) = some (.running, .none, 2, 0, false, 0#4, []) := ⟨rfl, rfl⟩

/-- V-U2, from a full buffer. -/
theorem test_short2 :
    regsOf (exec (.short2 1#2) (ones 2 true 0xB#4 [.accept])) = some (.running, .none, 2, 2, false, 0#4, [0xB9#8]) := rfl

/-- V-C4 with colour 1: SHORT3 takes 3 of 4 pixels. -/
theorem test_short3 :
    regsOf (exec (.short3 1#2) (ones 4 false 0#4 [])) = some (.running, .none, 4, 3, true, 0xD#4, []) := rfl

/-- V-E5: ESCLIT 1, 8 from an empty buffer. -/
theorem test_esclit :
    regsOf (exec (.esclit 1#2 8#4) (ones 8 false 0#4 [.accept])) = some (.running, .none, 8, 8, false, 0#4, [0x18#8]) := rfl

/-- W2: ESCPOW 1, 0. -/
theorem test_escpow :
    regsOf (exec (.escpow 1#2 0#4) (ones 16 false 0#4 [.accept])) = some (.running, .none, 16, 16, false, 0#4, [0x10#8]) := rfl

/-- V-X1, V-X3, V-X5. -/
theorem test_refusals :
    refusalOf (step (driven State.reset false 2#2)) = some (.reservedCommand 2#2) ∧
    refusalOf (step (driven (ones 1 false 0#4 []) false 1#2)) = some (.startOutsideIdle .running) ∧
    refusalOf (step (driven { ones 1 false 0#4 [] with phase := .done } false 1#2)) = some (.startOutsideIdle .done) :=
  ⟨rfl, rfl, rfl⟩

/-! Witnesses: the hypotheses of each obligation can be met. -/

/-- 17 pixels of colour 1 at position 0 of a run, nothing emitted, two accepted answers coming. -/
def sample : State := ones 17 false 0#4 [.accept, .accept]

/-- The pixel memory of a launch has the canonical form, whatever the pixels. -/
theorem sample_pix_wf : Memory.wf sample.pix := by decide

theorem sample_inv : sample.Inv where
  sp_le_dlen := by decide
  empty_holds_0 := fun _ => rfl
  idle_is_reset := by decide
  run_has_pixels := fun _ => by decide
  done_is_flushed := by decide
  error_iff := by decide
  dlen_in_memory := by decide
  dlen_fits := by decide
  pix_canonical := sample_pix_wf

theorem sample_stream : sample.StreamInv where
  emitted := fun _ => ⟨[], rfl, rfl⟩
  complete := by decide

/-- One pixel at position 0 of a run, nothing emitted. -/
def tiny (sink : List SinkAnswer) : State := ones 1 false 0#4 sink

theorem tiny_inv (sink : List SinkAnswer) : (tiny sink).Inv where
  sp_le_dlen := Nat.zero_le _
  empty_holds_0 := fun _ => rfl
  idle_is_reset := fun h => nomatch h
  run_has_pixels := fun _ => ⟨rfl, Nat.le_refl 1⟩
  done_is_flushed := fun h => nomatch h
  error_iff := ⟨fun h => (nomatch h), fun h => absurd rfl h⟩
  dlen_in_memory := Nat.le_refl 1
  dlen_fits := by show 1 ≤ 2 ^ 16 - 1; decide
  pix_canonical := by show Memory.wf [(0, 1#8)]; decide

theorem tiny_stream (sink : List SinkAnswer) : (tiny sink).StreamInv where
  emitted := fun _ => ⟨[], rfl, rfl⟩
  complete := fun h => nomatch h

theorem tiny_accepts : (tiny [.accept, .accept]).SinkAccepts 2 := by
  intro k hk
  have : k = 0 ∨ k = 1 := by omega
  rcases this with rfl | rfl <;> rfl

theorem starting_inv : (starting 4 64 3 5).Inv := by
  constructor <;> decide

theorem witness_DecodeOfEncodedUnits :
    (Instr.escpow 1#2 6#4).isUnit = true ∧ (Instr.escpow 1#2 6#4).wellFormed = true ∧
    ∀ i ∈ [Instr.esclit 1#2 7#4, .short3 0#2], i.isUnit = true ∧ i.wellFormed = true := by decide

theorem witness_DecodedUnitIsWhatWasEncoded : decodeUnit [1#4, 15#4, 4#4] = .ok (.esclit 1#2 15#4, [4#4]) := rfl

theorem witness_NibbleMaps : (6#4 : Nibble).toNat ≤ 6 ∧ 7 ≤ (7#4 : Nibble).toNat := by decide

theorem witness_ResetFromAnyPhase :
    (driven { sample with phase := .error } true 2#2).ports.rst = true ∧
    exec .reset sample = .next sample.resetRegs ∧ (starting 4 64 3 5).Inv ∧ (starting 4 64 3 5).phase = .idle :=
  ⟨rfl, rfl, starting_inv, rfl⟩

theorem witness_SelectorOrder :
    (driven sample true 3#2).ports.rst = true ∧
    ((starting 4 64 3 5).ports.rst = false ∧ (starting 4 64 3 5).ports.cmd = 1#2 ∧ (starting 4 64 3 5).phase = .idle) ∧
    ((driven sample false 1#2).ports.rst = false ∧ (driven sample false 1#2).ports.cmd = 1#2 ∧ sample.phase ≠ .idle) ∧
    ((driven sample false 2#2).ports.rst = false ∧ (driven sample false 2#2).ports.cmd = 2#2 ∧
      (driven sample false 3#2).ports.rst = false ∧ (driven sample false 3#2).ports.cmd = 3#2) ∧
    (sample.quietNow ∧ sample.phase = .running ∧ sample.sp < sample.dlen) ∧
    ({ sample with sp := 17 }.quietNow ∧ { sample with sp := 17 }.sp = { sample with sp := 17 }.dlen) ∧
    ({ sample with phase := .done }.quietNow ∧ { sample with phase := .done }.phase ≠ .running) := by decide

theorem witness_StepRunsTheSelectedOperation :
    (sample.select = .operation .step ∧ ∃ t, exec .step sample = .next t) ∧
    (sample.stepEnabled ∧ sample.detect = .ok { colour := 1#2, length := 17 }) ∧
    (State.powerUp (Params.of 1 2 0 .raw)).select = .wait :=
  ⟨⟨rfl, _, rfl⟩, ⟨by decide, rfl⟩, rfl⟩

theorem witness_FetchedWordRuns : Memory.wf State.reset.pix ∧ decodeTableWord 8 0x4 = some (.short1 0#2) :=
  ⟨⟨List.Pairwise.nil, by intro p hp; cases hp⟩, rfl⟩

theorem witness_CommandsRefused :
    ((driven sample false 2#2).ports.rst = false ∧ (driven sample false 2#2).ports.cmd = 2#2) ∧
    ((driven sample false 1#2).ports.rst = false ∧ (driven sample false 1#2).ports.cmd = 1#2 ∧
      (driven sample false 1#2).phase ≠ .idle) := by decide

/-- Each clause at a boundary: a zero with a negative; -1; 16 against 2^4 - 1; 16 against 15 elements; 15 = 2^4 - 1. -/
theorem witness_StartChecksThenBegins :
    (∀ s ∈ [starting 4 64 0 0xFD, starting 4 64 0xFF 1, starting 4 64 4 4, starting 5 15 4 4, starting 4 15 3 5],
      s.phase = .idle ∧ s.ports.rst = false ∧ s.ports.cmd = 1#2) ∧
    dimension (Params.of 4 8 64 .masked) 0xFF = -1 ∧ dimension (Params.of 4 8 64 .masked) 0 = 0 ∧
    dimension (Params.of 4 8 64 .masked) 4 = 4 ∧
    (2 : Int) ^ (Params.of 4 8 64 .masked).lenW - 1 < 4 * 4 ∧
    ((4 : Int) * 4 ≤ (2 : Int) ^ (Params.of 5 8 15 .masked).lenW - 1 ∧ ((Params.of 5 8 15 .masked).arrLen : Int) < 4 * 4) ∧
    ((3 : Int) * 5 ≤ (2 : Int) ^ (Params.of 4 8 15 .masked).lenW - 1 ∧
      (3 : Int) * 5 ≤ ((Params.of 4 8 15 .masked).arrLen : Int)) := by decide

theorem witness_DimensionIsTwosComplement :
    127 < 2 ^ (Params.of 4 8 0 .raw).dimW ∧ 127 < 2 ^ ((Params.of 4 8 0 .raw).dimW - 1) ∧
    128 < 2 ^ (Params.of 4 8 0 .raw).dimW ∧ ¬ 128 < 2 ^ ((Params.of 4 8 0 .raw).dimW - 1) := by decide

theorem witness_DimensionErrorsOnlyFromStart :
    ∃ t, step (starting 4 64 4 4) = .next t ∧ t.err ≠ (starting 4 64 4 4).err ∧ t.err = .invalidDimensions :=
  ⟨_, rfl, by decide, rfl⟩

theorem witness_DetectFindsTheMaximalRun : sample.sp < sample.dlen ∧ sample.dlen ≤ sample.cfg.arrLen := by decide

/-- Each comparison, with a pixel after the run: 1, 5, 2 is a run of 2 under Masked (5 has the low bits of 1) and of 1 under
Raw (V-D4a, V-D4b). -/
theorem witness_DetectFindsTheMaximalRun_compare :
    (∀ m : ColorCompare, (running m [1#8, 5#8, 2#8] 0 false 0#4 []).sp < (running m [1#8, 5#8, 2#8] 0 false 0#4 []).dlen ∧
      (running m [1#8, 5#8, 2#8] 0 false 0#4 []).dlen ≤ (running m [1#8, 5#8, 2#8] 0 false 0#4 []).cfg.arrLen ∧
      (running m [1#8, 5#8, 2#8] 0 false 0#4 []).cfg.colorCompare = m) ∧
    (running .masked [1#8, 5#8, 2#8] 0 false 0#4 []).detect = .ok { colour := 1#2, length := 2 } ∧
    (running .raw [1#8, 5#8, 2#8] 0 false 0#4 []).detect = .ok { colour := 1#2, length := 1 } :=
  ⟨fun m => by cases m <;> decide, rfl, rfl⟩

theorem witness_CompareModesAgreeOnColours :
    sample.dlen ≤ sample.cfg.arrLen ∧ (∀ i < sample.dlen, (Memory.read sample.pix i).toNat ≤ 3) ∧
    sample.sp < sample.dlen ∧ ∃ t, step (sample.withCompare .masked) = .next t :=
  ⟨by decide, by decide, by decide, _, rfl⟩

/-- Another pixel memory with other high bits and another pixel past DLEN. -/
theorem witness_OnlyKeysBelowDlenMatter :
    (tiny [.accept]).dlen ≤ (tiny [.accept]).cfg.arrLen ∧
    (∀ i < (tiny [.accept]).dlen, pixelKey (tiny [.accept]).cfg.colorCompare (Memory.read [(0, 5#8), (7, 9#8)] i) =
      pixelKey (tiny [.accept]).cfg.colorCompare (Memory.read (tiny [.accept]).pix i)) ∧
    ∃ t, step (tiny [.accept]) = .next t :=
  ⟨by decide, by decide, _, rfl⟩

theorem witness_StopsOutsideTheAssertions :
    { sample with sp := 17 }.dlen ≤ { sample with sp := 17 }.sp ∧
    ({ sample with cfg := Params.of 16 8 0 .masked }.sp < { sample with cfg := Params.of 16 8 0 .masked }.dlen ∧
      { sample with cfg := Params.of 16 8 0 .masked }.cfg.arrLen ≤ { sample with cfg := Params.of 16 8 0 .masked }.sp) := by
  decide

theorem witness_ClassifySelectsTheUnit : (1 ≤ 6 ∧ 6 < 7) ∧ (1 ≤ 7 ∧ 7 ≤ 7 ∧ 15 < 16) ∧ (1 ≤ 16 ∧ 16 ≤ 16) := by decide

theorem witness_ClassifyIgnoresLengthPast1024 : 1 ≤ 1025 := by decide

theorem witness_SinkWriteAppendsOrNot :
    (tiny [.accept]).sinkAnswer = .accept ∧ (tiny [.reject]).sinkAnswer = .reject := ⟨rfl, rfl⟩

theorem witness_EmitNibbleHoldsOrCompletes :
    (tiny []).nibValid = false ∧
    ((ones 1 true 4#4 [.accept]).nibValid = true ∧ (ones 1 true 4#4 [.accept]).sinkAnswer = .accept) ∧
    ((ones 1 true 4#4 [.reject]).nibValid = true ∧ (ones 1 true 4#4 [.reject]).sinkAnswer = .reject) := by decide

theorem witness_FinalizeFlushesThenDone :
    (∀ s ∈ [running .masked [1#8] 1 false 0#4 [], running .masked [1#8] 1 true 6#4 [.accept],
      running .masked [1#8] 1 true 6#4 [.reject]], s.phase = .running ∧ s.sp = s.dlen ∧ s.quietNow) ∧
    (running .masked [1#8] 1 false 0#4 []).nibValid = false ∧
    (running .masked [1#8] 1 true 6#4 [.accept]).sinkAnswer = .accept ∧
    (running .masked [1#8] 1 true 6#4 [.reject]).sinkAnswer = .reject := by decide

theorem witness_FinalizePadsAnOddNibble :
    (running .masked [1#8] 1 true 6#4 [.accept]).phase = .running ∧
    (running .masked [1#8] 1 true 6#4 [.accept]).sp = (running .masked [1#8] 1 true 6#4 [.accept]).dlen ∧
    ∃ t, exec .finalize (running .masked [1#8] 1 true 6#4 [.accept]) = .next t ∧ t.phase = .done :=
  ⟨rfl, rfl, _, rfl, rfl⟩

/-- Runs of 1, 2, 3 and 6 pixels, with each buffer and answer. -/
theorem witness_ShortUnitsEmitOneNibble :
    ((ones 1 false 0#4 []).stepEnabled ∧ (ones 1 false 0#4 []).detect = .ok { colour := 1#2, length := 1 } ∧
      (ones 1 false 0#4 []).nibValid = false) ∧
    ((ones 2 true 4#4 [.accept]).stepEnabled ∧ (ones 2 true 4#4 [.accept]).detect = .ok { colour := 1#2, length := 2 } ∧
      (ones 2 true 4#4 [.accept]).sinkAnswer = .accept) ∧
    ((ones 3 false 0#4 []).stepEnabled ∧ (ones 3 false 0#4 []).detect = .ok { colour := 1#2, length := 3 }) ∧
    ((ones 6 true 4#4 [.reject]).stepEnabled ∧ (ones 6 true 4#4 [.reject]).detect = .ok { colour := 1#2, length := 6 } ∧
      (ones 6 true 4#4 [.reject]).sinkAnswer = .reject) :=
  ⟨⟨by decide, rfl, rfl⟩, ⟨by decide, rfl, rfl⟩, ⟨by decide, rfl⟩, ⟨by decide, rfl, rfl⟩⟩

/-- Runs of 7, 15, 16 and 31 pixels, with each buffer and answer. -/
theorem witness_EscapeUnitsEmitTwoNibbles :
    ((ones 7 false 0#4 [.accept]).stepEnabled ∧ (ones 7 false 0#4 [.accept]).detect = .ok { colour := 1#2, length := 7 } ∧
      (7#4 : Nibble).toNat = 7 ∧ (ones 7 false 0#4 [.accept]).sinkAnswer = .accept) ∧
    ((ones 15 true 4#4 [.accept]).stepEnabled ∧ (ones 15 true 4#4 [.accept]).detect = .ok { colour := 1#2, length := 15 } ∧
      (15#4 : Nibble).toNat = 15) ∧
    ((ones 16 true 4#4 [.accept]).stepEnabled ∧ (ones 16 true 4#4 [.accept]).detect = .ok { colour := 1#2, length := 16 } ∧
      16 * 2 ^ (0#4 : Nibble).toNat ≤ 16 ∧ 16 < 16 * 2 ^ ((0#4 : Nibble).toNat + 1)) ∧
    ((ones 31 false 0#4 [.reject]).stepEnabled ∧ (ones 31 false 0#4 [.reject]).detect = .ok { colour := 1#2, length := 31 } ∧
      31 < 16 * 2 ^ ((0#4 : Nibble).toNat + 1) ∧ (ones 31 false 0#4 [.reject]).sinkAnswer = .reject) :=
  ⟨⟨by decide, rfl, rfl, rfl⟩, ⟨by decide, rfl, rfl⟩, ⟨by decide, rfl, by decide, by decide⟩, ⟨by decide, rfl, by decide, rfl⟩⟩

theorem witness_StepIsItsSubOperations : sample.Inv ∧ sample.stepEnabled := ⟨sample_inv, by decide⟩

theorem witness_UnselectedDoNotFire :
    ((Instr.short1 1#2).isUnit = true ∧ sample.stepEnabled ∧ sample.detect = .ok { colour := 1#2, length := 17 } ∧
      Instr.short1 1#2 ≠ classify 1#2 17) ∧
    ¬ { sample with sp := 17 }.stepEnabled ∧ ¬ sample.finalizeEnabled :=
  ⟨⟨rfl, by decide, rfl, by decide⟩, by decide, by decide⟩

theorem witness_FrameOfEmission :
    (∃ t, exec (.escpow 1#2 0#4) sample = .next t) ∧ (∃ t, exec .step sample = .next t) ∧
    (∃ t, exec (.emitNibble 3#4) sample = .next t) := ⟨⟨_, rfl⟩, ⟨_, rfl⟩, ⟨_, rfl⟩⟩

theorem witness_FrameOfPureSubOperations :
    (∃ t, exec .detect sample = .next t) ∧ (∃ t, exec (.classify 1#2 17) sample = .next t) := ⟨⟨_, rfl⟩, ⟨_, rfl⟩⟩

theorem witness_FrameOfControl :
    (∃ t, exec .reset sample = .next t) ∧ (∃ t, exec .start (starting 4 64 3 5) = .next t) ∧
    (∃ t, exec .finalize { sample with sp := 17 } = .next t) := ⟨⟨_, rfl⟩, ⟨_, rfl⟩, ⟨_, rfl⟩⟩

theorem witness_StepKeepsInvariant : sample.Inv ∧ ∃ t, step sample = .next t := ⟨sample_inv, _, rfl⟩

theorem witness_StepKeepsStreamInvariant : sample.Inv ∧ sample.StreamInv ∧ ∃ t, step sample = .next t :=
  ⟨sample_inv, sample_stream, _, rfl⟩

theorem witness_RunReachesDoneAndDecodes :
    (tiny [.accept, .accept]).Inv ∧ (tiny [.accept, .accept]).StreamInv ∧ (tiny [.accept, .accept]).phase = .running ∧
    (tiny [.accept, .accept]).quiet ∧ (tiny [.accept, .accept]).SinkAccepts 2 :=
  ⟨tiny_inv _, tiny_stream _, rfl, rfl, tiny_accepts⟩

/-- A launch of one pixel. -/
def launched : State :=
  State.launch (Params.of 16 8 1 .masked) [1#8] [{ rst := false, cmd := 1#2, cfgWidth := 1, cfgHeight := 1 }]
    [.accept, .accept]

theorem launched_inv : launched.Inv := by constructor <;> decide

theorem witness_LaunchEncodesItsPixels :
    launched.Inv ∧ launched.phase = .idle ∧ launched.host = [{ rst := false, cmd := 1#2, cfgWidth := 1, cfgHeight := 1 }] ∧
    dimension launched.cfg 1 = 1 ∧ (1 : Int) * 1 ≤ (2 : Int) ^ launched.cfg.lenW - 1 ∧
    (1 : Int) * 1 ≤ (launched.cfg.arrLen : Int) ∧ launched.SinkAccepts (((1 : Int) * 1).toNat + 1) :=
  ⟨launched_inv, rfl, rfl, rfl, by decide, by decide, tiny_accepts⟩

theorem witness_OutputIsAPrefixOfTheStream :
    sample.Inv ∧ sample.phase = .running ∧ sample.quiet ∧ ∃ t, Sys2Proof.core.run 1 sample = .next t :=
  ⟨sample_inv, rfl, rfl, _, rfl⟩

theorem witness_OnePixelGivesOneByte :
    (tiny [.accept]).phase = .running ∧ (tiny [.accept]).sp = 0 ∧ (tiny [.accept]).dlen = 1 ∧
    1 ≤ (tiny [.accept]).cfg.arrLen ∧ (tiny [.accept]).nibValid = false ∧ (tiny [.accept]).out = [] ∧
    (tiny [.accept]).quiet ∧ (tiny [.accept]).sinkAnswer = .accept := by decide

theorem witness_PhaseEdges :
    (∃ t, step (starting 4 64 3 5) = .next t ∧ t.phase = .running) ∧
    (∃ t, step (running .masked [1#8] 1 false 0#4 []) = .next t ∧ t.phase = .done) ∧
    (∃ t, step (ones 1 true 4#4 [.reject]) = .next t ∧ t.phase = .error) ∧
    (∃ t, step (driven sample true 0#2) = .next t ∧ t.phase = .idle) :=
  ⟨⟨_, rfl, rfl⟩, ⟨_, rfl, rfl⟩, ⟨_, rfl, rfl⟩, ⟨_, rfl, rfl⟩⟩

theorem witness_ErrorsArePrecise :
    (∃ t, step (ones 1 true 4#4 [.reject]) = .next t ∧ t.phase = .error ∧ (ones 1 true 4#4 [.reject]).phase = .running) ∧
    (∃ t, step (starting 4 64 4 4) = .next t ∧ t.phase = .error ∧ (starting 4 64 4 4).phase = .idle) :=
  ⟨⟨_, rfl, rfl, rfl⟩, ⟨_, rfl, rfl, rfl⟩⟩

theorem witness_WaitingAndTerminalStates :
    ({ sample with phase := .error }.quietNow ∧ { sample with phase := .error }.phase ≠ .running) ∧
    ∃ t, step (driven { sample with phase := .error } true 0#2) = .next t ∧ t.phase ≠ .error :=
  ⟨by decide, _, rfl, by decide⟩

theorem witness_ScanPositionAdvances :
    sample.Inv ∧ sample.phase = .running ∧ sample.ports.rst = false ∧
    ∃ t, step sample = .next t ∧ t.phase = .running :=
  ⟨sample_inv, rfl, rfl, _, rfl, rfl⟩

theorem tiny_full_inv : ({ tiny [.reject] with nibValid := true, nibHold := 4#4 } : State).Inv where
  sp_le_dlen := Nat.zero_le _
  empty_holds_0 := fun h => nomatch h
  idle_is_reset := fun h => nomatch h
  run_has_pixels := fun _ => ⟨rfl, Nat.le_refl 1⟩
  done_is_flushed := fun h => nomatch h
  error_iff := (tiny_inv [.reject]).error_iff
  dlen_in_memory := Nat.le_refl 1
  dlen_fits := (tiny_inv [.reject]).dlen_fits
  pix_canonical := (tiny_inv [.reject]).pix_canonical

theorem witness_ScanPositionAdvances_ended :
    ({ tiny [.reject] with nibValid := true, nibHold := 4#4 } : State).Inv ∧
    ∃ t, step { tiny [.reject] with nibValid := true, nibHold := 4#4 } = .next t ∧ t.phase ≠ .running :=
  ⟨tiny_full_inv, _, rfl, by decide⟩

theorem witness_OutputIsAppendOnly : ∃ t, step sample = .next t ∧ t.out ≠ sample.out := ⟨_, rfl, by decide⟩

theorem witness_LaunchIsConstant : ∃ t, step sample = .next t := ⟨_, rfl⟩

theorem witness_AtMostOneWriteEach :
    (sample.selectedUnit = .ok (some (.escpow 1#2 0#4)) ∧ (∃ t, exec .step sample = .next t) ∧
      (encode (.escpow 1#2 0#4)).length = 2) ∧
    ((tiny []).selectedUnit = .ok (some (.short1 1#2)) ∧ (∃ t, exec .step (tiny []) = .next t) ∧
      (encode (.short1 1#2)).length = 1) ∧
    ({ sample with sp := 17 }.finalizeEnabled ∧ ∃ t, exec .finalize { sample with sp := 17 } = .next t) :=
  ⟨⟨rfl, ⟨_, rfl⟩, rfl⟩, ⟨rfl, ⟨_, rfl⟩, rfl⟩, by decide, _, rfl⟩

theorem witness_NibblesAreCounted :
    (∃ t, exec .start (starting 4 64 3 5) = .next t ∧ t.phase = .running) ∧
    (sample.selectedUnit = .ok (some (.escpow 1#2 0#4)) ∧ ∃ t, exec .step sample = .next t ∧ t.phase ≠ .error) :=
  ⟨⟨_, rfl, rfl⟩, rfl, _, rfl, by decide⟩

theorem witness_SoundStatesGoOn :
    sample.Inv ∧ (sample.ports.rst = true ∨ sample.ports.cmd = 0#2 ∨ (sample.ports.cmd = 1#2 ∧ sample.phase = .idle)) ∧
    sample.phase = .running ∧ sample.quietNow := ⟨sample_inv, by decide, rfl, by decide⟩

theorem witness_DimensionsReadOnlyByStart :
    sample.phase ≠ .idle ∧ ((Drive.idle.rst = true ∨ Drive.idle.cmd ≠ 1#2) ∧ State.reset.phase = .idle) ∧
    Drive.idle.rst = (Drive.mk false 0#2 9 9).rst ∧ Drive.idle.cmd = (Drive.mk false 0#2 9 9).cmd :=
  ⟨by decide, ⟨by decide, rfl⟩, rfl, rfl⟩

end Sys2Proof.Tests
end

/-!
PROOFS. The unit format (30_encoding.md): what the decoder reads at the first nibble of a unit (R75), and the maps of the
first nibble and of an escape's second nibble (R77, R78).
-/
namespace Sys2Proof

/-! One unit read from the front of a stream: the first nibble alone decides how much is consumed (R75). -/

/-- A short form consumes its one nibble. -/
theorem decodeUnit_of_shortUnit {u : Nibble} {i : Instr} (h : shortUnit u = some i) (rest : List Nibble) :
    decodeUnit (u :: rest) = .ok (i, rest) := by
  simp only [decodeUnit, h]

/-- An escape nibble consumes the nibble after it as well. -/
theorem decodeUnit_of_escape {u : Nibble} (h : shortUnit u = none) (v : Nibble) (rest : List Nibble) :
    decodeUnit (u :: v :: rest) = .ok (escapeUnit u v, rest) := by
  simp only [decodeUnit, h]

/-! R77 writes a short form's nibble as a sum, R79 as a count field above a colour field: the colour needs two bits, so
the two agree. -/

theorem short1Nibble_eq_add : ∀ c : Colour, c.setWidth 4 ||| (1#4 <<< 2) = 0x4#4 + c.setWidth 4 := by decide

theorem short2Nibble_eq_add : ∀ c : Colour, c.setWidth 4 ||| (2#4 <<< 2) = 0x8#4 + c.setWidth 4 := by decide

theorem short3Nibble_eq_add : ∀ c : Colour, c.setWidth 4 ||| (3#4 <<< 2) = 0xC#4 + c.setWidth 4 := by decide

/-- R77, the short forms: the first nibbles `4+c`, `8+c` and `C+c`. -/
theorem shortUnit_add (c : Colour) :
    shortUnit (0x4#4 + c.setWidth 4) = some (.short1 c) ∧
    shortUnit (0x8#4 + c.setWidth 4) = some (.short2 c) ∧
    shortUnit (0xC#4 + c.setWidth 4) = some (.short3 c) := by
  obtain ⟨h1, h2, h3⟩ := shortUnit_encode
  exact ⟨short1Nibble_eq_add c ▸ h1 c, short2Nibble_eq_add c ▸ h2 c, short3Nibble_eq_add c ▸ h3 c⟩

/-- R77, the escape: a first nibble that is the colour itself, read with the nibble after it. -/
theorem decodeUnit_escapeNibble (c : Colour) (v : Nibble) (rest : List Nibble) :
    decodeUnit (c.setWidth 4 :: v :: rest) = .ok (escapeUnit (c.setWidth 4) v, rest) :=
  decodeUnit_of_escape (shortUnit_escape c).1 v rest

/-- R78: an ESCPOW's pixels, the model's shift written as a power of two. -/
theorem escpow_pixels (c : Colour) (k : Nibble) : (Instr.escpow c k).pixels = 16 * 2 ^ k.toNat :=
  Nat.shiftLeft_eq 16 k.toNat

/-- Settles O3: the short forms by the first nibble alone; an escape by its second nibble, split at 7. -/
theorem nibbleMaps : Obligations.NibbleMaps := by
  refine ⟨fun c rest => ?_, fun c v rest => ⟨fun hv => ?_, fun hv => ?_⟩⟩
  · obtain ⟨h1, h2, h3⟩ := shortUnit_add c
    exact ⟨decodeUnit_of_shortUnit h1 rest, decodeUnit_of_shortUnit h2 rest, decodeUnit_of_shortUnit h3 rest⟩
  · rw [decodeUnit_escapeNibble, escapeUnit_escpow c v hv]
    exact ⟨rfl, escpow_pixels c v⟩
  · rw [decodeUnit_escapeNibble, escapeUnit_esclit c v hv]
    exact ⟨rfl, rfl⟩

end Sys2Proof

/-!
PROOFS. Run detection (41_run_detection.md): what DETECT and CLASSIFY do when run by themselves, the run DETECT finds, and
that a step reads the pixels through DETECT alone (R120, R121, R123).
-/
namespace Sys2Proof.Machine

/-! DETECT by itself: an equation per case, then everything it can answer as a next state. -/

theorem exec_detect_of_run {s : State} {r : Run} (hsp : s.sp < s.dlen) (hd : s.detect = .ok r) :
    exec .detect s = .next (s.setDetected r) := by
  simp only [exec, execDetect, if_pos hsp, hd]

theorem exec_detect_of_fault {s : State} {f : Fault} (hsp : s.sp < s.dlen) (hd : s.detect = .error f) :
    exec .detect s = .fault f := by
  simp only [exec, execDetect, if_pos hsp, hd]

theorem exec_detect_of_no_pixel {s : State} (hsp : s.dlen ≤ s.sp) : exec .detect s = .refused .noPixelLeft :=
  if_neg (Nat.not_lt.mpr hsp)

theorem exec_detect_next {s t : State} (h : exec .detect s = .next t) :
    ∃ r, s.detect = .ok r ∧ t = s.setDetected r := by
  by_cases hsp : s.sp < s.dlen
  · cases hd : s.detect with
    | error f => simp [exec_detect_of_fault hsp hd] at h
    | ok r =>
      rw [exec_detect_of_run hsp hd] at h
      exact ⟨r, rfl, (Host.Outcome.next.inj h).symm⟩
  · simp [exec_detect_of_no_pixel (Nat.not_lt.mp hsp)] at h

/-- DETECT reads the pixel at SP first (R120), so a scan position outside the memory stops it there. -/
theorem State.detect_outside {s : State} (h : s.cfg.arrLen ≤ s.sp) : s.detect = .error (.pixelOutsideMemory s.sp) := by
  simp only [State.detect, State.pixRead, if_neg (Nat.not_lt.mpr h)]

/-! CLASSIFY by itself, in the same way. -/

theorem exec_classify_of_pos {len : Nat} (h : 1 ≤ len) (c : Colour) (s : State) :
    exec (.classify c len) s = .next (s.setClassified (classify c len)) := if_pos h

theorem exec_classify_zero (c : Colour) (s : State) : exec (.classify c 0) s = .refused .emptyRun := rfl

theorem exec_classify_next {c : Colour} {len : Nat} {s t : State} (h : exec (.classify c len) s = .next t) :
    t = s.setClassified (classify c len) := by
  cases len with
  | zero => simp [exec_classify_zero] at h
  | succ n =>
    rw [exec_classify_of_pos (Nat.succ_pos n)] at h
    exact (Host.Outcome.next.inj h).symm

/-- Settles O18: the two assertions that the model refuses, and the read outside the pixel memory. -/
theorem stopsOutsideTheAssertions : Obligations.StopsOutsideTheAssertions :=
  ⟨fun _ h => exec_detect_of_no_pixel h, fun s c => exec_classify_zero c s,
    fun _ hsp h => exec_detect_of_fault hsp (State.detect_outside h)⟩

/-- Settles O32: each of the two changes one record of the model's own. -/
theorem frameOfPureSubOperations : Obligations.FrameOfPureSubOperations := by
  rintro i s t (rfl | ⟨c, len, rfl⟩) h
  · obtain ⟨r, -, rfl⟩ := exec_detect_next h
    exact ⟨rfl, fun _ => rfl, rfl, rfl, rfl, rfl, fun _ => rfl, fun hne => absurd rfl hne⟩
  · obtain rfl := exec_classify_next h
    exact ⟨rfl, fun _ => rfl, rfl, rfl, rfl, rfl, nofun, fun _ => rfl⟩

/-- Settles O15: the maximal run by its keys, and the keys said out for each comparison. -/
theorem detectFindsTheMaximalRun : Obligations.DetectFindsTheMaximalRun := by
  intro s hsp hmem
  obtain ⟨len, hd, hpos, hle, hall, hstop⟩ := s.detect_spec hsp hmem
  refine ⟨_, exec_detect_of_run hsp hd, hd, rfl, hpos, hle, hall, hstop, fun hm => ?_, fun hr => ?_⟩
  · simp only [State.keyAt, hm, ne_eq, pixelKey_masked_eq_iff] at hall hstop
    exact ⟨hall, hstop⟩
  · simp only [State.keyAt, hr, ne_eq, pixelKey_raw_eq_iff] at hall hstop
    exact ⟨hall, hstop⟩

/-! Long runs (R123): from 1024 pixels on, the size class is the largest one whatever the length. -/

theorem sizeClass_of_1024_le {len : Nat} (h : 1024 ≤ len) : sizeClass len = 6 := if_pos h

theorem classify_of_16_le {len : Nat} (h : 16 ≤ len) (c : Colour) :
    classify c len = .escpow c (BitVec.ofNat 4 (sizeClass len)) := by
  rw [classify, if_neg (by omega), if_neg (by omega)]

/-- Settles O20: up to 1024 the two lengths are the same; past it both have size class 6. -/
theorem classifyIgnoresLengthPast1024 : Obligations.ClassifyIgnoresLengthPast1024 := by
  intro c len _
  rcases Nat.le_total len 1024 with h | h
  · rw [Nat.min_eq_left h]
  · rw [Nat.min_eq_right h, classify_of_16_le (by omega), classify_of_16_le (by omega),
      sizeClass_of_1024_le h, sizeClass_of_1024_le (Nat.le_refl _)]

/-! A maximal run is fixed by which pixels below DLEN have the key of the pixel at SP. -/

/-- Two maximal runs that agree where a pixel continues the run have the same length: the shorter one cannot stop inside
the longer one. -/
theorem State.detect_congr {s t : State} (hsp : s.sp < s.dlen) (hsmem : s.dlen ≤ s.cfg.arrLen)
    (htmem : t.dlen ≤ t.cfg.arrLen) (hspt : t.sp = s.sp) (hdlen : t.dlen = s.dlen)
    (hcolour : pixelColour (Memory.read t.pix s.sp) = pixelColour (Memory.read s.pix s.sp))
    (hkey : ∀ i < s.dlen, t.keyAt i = t.keyAt s.sp ↔ s.keyAt i = s.keyAt s.sp) : t.detect = s.detect := by
  obtain ⟨n, hs, -, hsle, hsall, hsstop⟩ := s.detect_spec hsp hsmem
  obtain ⟨m, ht, -, htle, htall, htstop⟩ := t.detect_spec (hspt ▸ hdlen ▸ hsp) htmem
  rw [hspt] at ht htle htall htstop
  rw [hdlen] at htle htstop
  have hmn : m = n := by
    rcases Nat.lt_trichotomy m n with hlt | heq | hgt
    · exact absurd ((hkey _ (by omega)).mpr (hsall m hlt)) (htstop (by omega))
    · exact heq
    · exact absurd ((hkey _ (by omega)).mp (htall n hgt)) (hsstop (by omega))
  rw [ht, hs, hmn, hcolour]

/-- Where a pixel is a bare colour, Masked compares all of it (R121). -/
theorem pixelKey_masked_of_le : ∀ x : Byte, x.toNat ≤ 3 → pixelKey .masked x = x := by decide

/-! A state whose pixels are read in another way: under another comparison, from another memory. Only DETECT reads pixels, so
where DETECT answers the same, every instruction and every step does the same. -/

/-- The state with its comparison mode and its pixel memory replaced. -/
def State.mapReading (cmp : ColorCompare → ColorCompare) (mem : Memory → Memory) (s : State) : State :=
  { s with cfg := { s.cfg with colorCompare := cmp s.cfg.colorCompare }, pix := mem s.pix }

/-- Applies a function to the next state of an outcome; a stop stays as it is. -/
def mapNext (g : State → State) : Host.Outcome State Fault Refusal → Host.Outcome State Fault Refusal
  | .next t => .next (g t)
  | .fault f => .fault f
  | .refused r => .refused r

section Reading
variable (cmp : ColorCompare → ColorCompare) (mem : Memory → Memory) (s : State)

@[simp] theorem State.mapReading_nibValid : (s.mapReading cmp mem).nibValid = s.nibValid := rfl
@[simp] theorem State.mapReading_sinkAnswer : (s.mapReading cmp mem).sinkAnswer = s.sinkAnswer := rfl

theorem State.emit_mapReading (u : Nibble) :
    (s.mapReading cmp mem).emit u =
      ((s.emit u).map (State.mapReading cmp mem)).mapError (State.mapReading cmp mem) := by
  cases hv : s.nibValid with
  | false => rw [State.emit_empty hv]; exact State.emit_empty (s := s.mapReading cmp mem) hv u
  | true =>
    cases ha : s.sinkAnswer with
    | accept => rw [State.emit_accept hv ha]; exact State.emit_accept (s := s.mapReading cmp mem) hv ha u
    | reject => rw [State.emit_reject hv ha]; exact State.emit_reject (s := s.mapReading cmp mem) hv ha u

theorem State.emitAll_mapReading (us : List Nibble) :
    (s.mapReading cmp mem).emitAll us =
      ((s.emitAll us).map (State.mapReading cmp mem)).mapError (State.mapReading cmp mem) := by
  induction us generalizing s with
  | nil => rfl
  | cons u us ih =>
    simp only [State.emitAll, State.emit_mapReading]
    cases s.emit u with
    | ok t => exact ih t
    | error t => rfl

theorem State.runUnit_mapReading (u : Instr) :
    (s.mapReading cmp mem).runUnit u = (s.runUnit u).mapReading cmp mem := by
  simp only [State.runUnit, State.emitAll_mapReading]
  cases s.emitAll (encode u) <;> rfl

theorem State.start_mapReading (w h : Int) :
    (s.mapReading cmp mem).start w h = (s.start w h).mapReading cmp mem := by
  simp only [State.start, apply_ite (State.mapReading cmp mem)]
  rfl

theorem State.finalize_mapReading : (s.mapReading cmp mem).finalize = s.finalize.mapReading cmp mem := by
  cases hv : s.nibValid with
  | false => simp only [State.finalize, State.mapReading_nibValid, hv]; rfl
  | true =>
    cases ha : s.sinkAnswer <;>
      simp only [State.finalize, State.sinkWrite, State.mapReading_nibValid, State.mapReading_sinkAnswer, hv, ha] <;> rfl

theorem moveOn_mapNext_mapReading (o : Host.Outcome State Fault Refusal) :
    moveOn (mapNext (State.mapReading cmp mem) o) = mapNext (State.mapReading cmp mem) (moveOn o) := by
  cases o <;> rfl

variable {cmp mem s} (hdetect : s.sp < s.dlen → (s.mapReading cmp mem).detect = s.detect)
include hdetect

theorem State.selectedUnit_mapReading : (s.mapReading cmp mem).selectedUnit = s.selectedUnit := by
  by_cases he : s.stepEnabled
  · have he' : (s.mapReading cmp mem).stepEnabled := he
    simp only [State.selectedUnit, if_pos he, if_pos he', hdetect he.2]
  · have he' : ¬ (s.mapReading cmp mem).stepEnabled := he
    rw [State.selectedUnit_of_disabled he, State.selectedUnit_of_disabled he']

theorem State.fireUnit_mapReading (u : Instr) :
    (s.mapReading cmp mem).fireUnit u = mapNext (State.mapReading cmp mem) (s.fireUnit u) := by
  simp only [State.fireUnit, State.selectedUnit_mapReading hdetect, State.runUnit_mapReading]
  rcases s.selectedUnit with f | _ | v
  · rfl
  · rfl
  · exact (apply_ite (mapNext (State.mapReading cmp mem)) (v = u) (.next (s.runUnit u)) (.next s)).symm

theorem execStep_mapReading :
    execStep (s.mapReading cmp mem) = mapNext (State.mapReading cmp mem) (execStep s) := by
  simp only [execStep, State.selectedUnit_mapReading hdetect, State.runUnit_mapReading]
  rcases s.selectedUnit with f | _ | v <;> rfl

theorem exec_detect_mapReading :
    exec .detect (s.mapReading cmp mem) = mapNext (State.mapReading cmp mem) (exec .detect s) := by
  by_cases hsp : s.sp < s.dlen
  · cases hd : s.detect with
    | error f =>
      rw [exec_detect_of_fault hsp hd]
      exact exec_detect_of_fault (s := s.mapReading cmp mem) hsp ((hdetect hsp).trans hd)
    | ok r =>
      rw [exec_detect_of_run hsp hd]
      exact exec_detect_of_run (s := s.mapReading cmp mem) hsp ((hdetect hsp).trans hd)
  · have hle : s.dlen ≤ s.sp := Nat.not_lt.mp hsp
    rw [exec_detect_of_no_pixel hle]
    exact exec_detect_of_no_pixel (s := s.mapReading cmp mem) hle

/-- Where DETECT answers the same, so does every instruction, but for the reading itself. -/
theorem exec_mapReading (i : Instr) :
    exec i (s.mapReading cmp mem) = mapNext (State.mapReading cmp mem) (exec i s) := by
  cases i with
  | short1 c => exact State.fireUnit_mapReading hdetect _
  | short2 c => exact State.fireUnit_mapReading hdetect _
  | short3 c => exact State.fireUnit_mapReading hdetect _
  | esclit c v => exact State.fireUnit_mapReading hdetect _
  | escpow c k => exact State.fireUnit_mapReading hdetect _
  | reset => rfl
  | start =>
    simp only [exec, execStart, State.start_mapReading, apply_ite (mapNext (State.mapReading cmp mem))]
    rfl
  | step => exact execStep_mapReading hdetect
  | finalize =>
    simp only [exec, execFinalize, State.finalize_mapReading, apply_ite (mapNext (State.mapReading cmp mem))]
    rfl
  | detect => exact exec_detect_mapReading hdetect
  | classify c len =>
    simp only [exec, execClassify, apply_ite (mapNext (State.mapReading cmp mem))]
    rfl
  | emitNibble u =>
    simp only [exec, execEmitNibble, State.emit_mapReading]
    cases s.emit u <;> rfl

/-- Where DETECT answers the same, so does a step: the selector reads no pixel (R100). -/
theorem step_mapReading : step (s.mapReading cmp mem) = mapNext (State.mapReading cmp mem) (step s) := by
  have hsel : (s.mapReading cmp mem).select = s.select := rfl
  simp only [step, hsel]
  cases s.select with
  | operation i => simp only [exec_mapReading hdetect, moveOn_mapNext_mapReading]
  | wait => rfl
  | refuse r => rfl

end Reading

/-- R121: where every pixel below DLEN is a bare colour, DETECT finds the same run under both comparisons. -/
theorem State.detect_masked_eq_raw {s : State} (hsp : s.sp < s.dlen) (hmem : s.dlen ≤ s.cfg.arrLen)
    (hpix : ∀ i < s.dlen, (Memory.read s.pix i).toNat ≤ 3) :
    (s.withCompare .masked).detect = (s.withCompare .raw).detect := by
  have hkey : ∀ i < s.dlen, (s.withCompare .masked).keyAt i = (s.withCompare .raw).keyAt i :=
    fun i hi => pixelKey_masked_of_le _ (hpix i hi)
  refine State.detect_congr (s := s.withCompare .raw) (t := s.withCompare .masked) hsp hmem hmem rfl rfl rfl ?_
  intro i hi
  rw [hkey i hi, hkey (s.withCompare .raw).sp hsp]

/-- Settles O16: the runs are the same, and Raw is Masked with its pixels read in another way. -/
theorem compareModesAgreeOnColours : Obligations.CompareModesAgreeOnColours := by
  intro s hmem hpix
  refine ⟨fun hsp => State.detect_masked_eq_raw hsp hmem hpix, fun t ht => ?_⟩
  have hraw := step_mapReading (cmp := fun _ => .raw) (mem := id) (s := s.withCompare .masked)
    fun hsp => (State.detect_masked_eq_raw hsp hmem hpix).symm
  rw [ht] at hraw
  exact hraw

end Sys2Proof.Machine

/-!
PROOFS. Length classification (42_classification.md R140): the unit CLASSIFY gives in each of its three ranges of lengths,
split where the forms change, at 7 and at 16.
-/
namespace Sys2Proof.Machine

/-- Below 7 a run of three or more is cut to three pixels. -/
theorem classify_of_3_le_of_lt_7 {len : Nat} (h3 : 3 ≤ len) (h7 : len < 7) (c : Colour) :
    classify c len = .short3 c := by
  rw [classify, if_pos h7, Nat.min_eq_right h3]
  rfl

theorem classify_of_7_le_of_lt_16 {len : Nat} (h7 : 7 ≤ len) (h16 : len < 16) (c : Colour) :
    classify c len = .esclit c (BitVec.ofNat 4 len) := by
  rw [classify, if_neg (Nat.not_lt.mpr h7), if_pos h16]

/-- A short unit takes `min len 3` pixels, and its nibble is that count above the colour. -/
theorem classify_short_pixels_encode {len : Nat} (h1 : 1 ≤ len) (h7 : len < 7) (c : Colour) :
    (classify c len).pixels = min len 3 ∧
      encode (classify c len) = [c.setWidth 4 ||| (BitVec.ofNat 4 (min len 3) <<< 2)] := by
  obtain rfl | rfl | h3 : len = 1 ∨ len = 2 ∨ 3 ≤ len := by omega
  · exact ⟨rfl, rfl⟩
  · exact ⟨rfl, rfl⟩
  · rw [classify_of_3_le_of_lt_7 h3 h7, Nat.min_eq_right h3]
    exact ⟨rfl, rfl⟩

/-- The size class is the largest `k <= 6` that fits (R145): a larger one would be at least the next one, which does not
fit. -/
theorem le_sizeClass {len j : Nat} (h16 : 16 ≤ len) (hj : j ≤ 6) (hfit : 16 * 2 ^ j ≤ len) : j ≤ sizeClass len := by
  obtain ⟨-, -, hnext⟩ := sizeClass_spec len h16
  by_contra hlt
  have hpow : 2 ^ (sizeClass len + 1) ≤ 2 ^ j := Nat.pow_le_pow_right (by decide) (by omega)
  have hover := hnext (by omega)
  rw [Nat.shiftLeft_eq] at hover
  omega

/-- Settles O19: one range of lengths at a time; the record is CLASSIFY's one write. -/
theorem classifySelectsTheUnit : Obligations.ClassifySelectsTheUnit := by
  intro s c len h1
  refine ⟨_, exec_classify_of_pos h1 c s, rfl, fun h7 => ?short, fun h7 h16 => ?esclit, fun h16 => ?escpow⟩
  case short =>
    obtain ⟨hpix, henc⟩ := classify_short_pixels_encode h1 h7 c
    exact ⟨hpix, henc, fun h => h ▸ rfl, fun h => h ▸ rfl, fun h3 => classify_of_3_le_of_lt_7 h3 h7 c⟩
  case esclit =>
    rw [classify_of_7_le_of_lt_16 h7 h16]
    exact ⟨rfl, ofNat4_toNat h16, rfl⟩
  case escpow =>
    obtain ⟨h6, hfit, -⟩ := sizeClass_spec len h16
    have hk : (BitVec.ofNat 4 (sizeClass len)).toNat = sizeClass len := ofNat4_toNat (by omega)
    rw [classify_of_16_le h16]
    exact ⟨sizeClass len, h6, Nat.shiftLeft_eq 16 _ ▸ hfit, fun j hj => le_sizeClass h16 hj, rfl,
      (escpow_pixels c _).trans (by rw [hk]), rfl⟩

end Sys2Proof.Machine

/-!
PROOFS. Nibble packing (43_nibble_packing.md): the byte two nibbles make (R171), what FINALIZE does in each of its cases
(R172), the step a quiet host lets a RUNNING block take (R100), and the run of one pixel (R178).
-/
namespace Sys2Proof.Machine

/-! The byte of two nibbles (R171). -/

/-- The two fields are disjoint, so R171's shift and OR are the concatenation. -/
theorem packByte_eq_append (hi lo : Nibble) : packByte hi lo = hi ++ lo := by
  rw [BitVec.append_def, BitVec.shiftLeftZeroExtend_eq, packByte, BitVec.setWidth'_eq]

theorem packByte_toNat (hi lo : Nibble) : (packByte hi lo).toNat = 16 * hi.toNat + lo.toNat := by
  rw [packByte_eq_append, BitVec.toNat_append, ← Nat.shiftLeft_add_eq_or_of_lt lo.isLt, Nat.shiftLeft_eq,
    Nat.mul_comm]

/-- Settles O23: the halves are the byte's two nibbles in stream order. -/
theorem byteComposition : Obligations.ByteComposition := by
  intro hi lo
  obtain ⟨hhigh, htail⟩ := List.cons.inj (byteNibbles_packByte hi lo)
  exact ⟨hhigh, List.head_eq_of_cons_eq htail, packByte_eq_append hi lo, packByte_toNat hi lo⟩

/-! FINALIZE (R172): an equation per case. -/

theorem State.finalize_empty {s : State} (hv : s.nibValid = false) : s.finalize = s.setPhase .done := by
  simp [State.finalize, hv]

theorem State.finalize_accept {s : State} (hv : s.nibValid = true) (ha : s.sinkAnswer = .accept) :
    s.finalize = (s.takeAnswer.appendOut (packByte s.nibHold 0#4)).clearNibble.setPhase .done := by
  simp [State.finalize, hv, State.sinkWrite_accept ha]

theorem State.finalize_reject {s : State} (hv : s.nibValid = true) (ha : s.sinkAnswer = .reject) :
    s.finalize = s.raiseError s.takeAnswer .outputWriteFailure := by
  simp [State.finalize, hv, State.sinkWrite_reject ha]

theorem exec_finalize_of_enabled {s : State} (h : s.finalizeEnabled) : exec .finalize s = .next s.finalize := if_pos h

/-! What a host without reset and command lets a block do (R100): STEP while a pixel is left, then FINALIZE. -/

theorem State.quietNow_of_quiet {s : State} (h : s.quiet) : s.quietNow := by
  simp [State.quietNow, State.ports, h, Drive.idle]

theorem State.select_of_quietNow {s : State} (h : s.quietNow) :
    s.select =
      if s.stepEnabled then .operation .step
      else if s.finalizeEnabled then .operation .finalize
      else .wait := by
  obtain ⟨hrst, hcmd⟩ := h
  simp [State.select, hrst, (decodeCommand_none_iff _).mpr hcmd]

theorem State.select_step {s : State} (hq : s.quietNow) (he : s.stepEnabled) : s.select = .operation .step := by
  rw [State.select_of_quietNow hq, if_pos he]

/-- STEP and FINALIZE exclude each other: the one has SP below DLEN, the other SP at DLEN. -/
theorem State.select_finalize {s : State} (hq : s.quietNow) (hf : s.finalizeEnabled) :
    s.select = .operation .finalize := by
  have hne : ¬ s.stepEnabled := fun he => Nat.ne_of_lt he.2 hf.2
  rw [State.select_of_quietNow hq, if_neg hne, if_pos hf]

theorem step_of_stepEnabled {s : State} {r : Run} (hq : s.quietNow) (he : s.stepEnabled) (hd : s.detect = .ok r) :
    step s = .next (s.runUnit (classify r.colour r.length)).advanceHost := by
  simp only [step, State.select_step hq he, exec, execStep, State.selectedUnit_of_detect he hd, moveOn]

theorem step_of_finalizeEnabled {s : State} (hq : s.quietNow) (hf : s.finalizeEnabled) :
    step s = .next s.finalize.advanceHost := by
  simp only [step, State.select_finalize hq hf, exec_finalize_of_enabled hf, moveOn]

/-- Settles O25: the selection, then FINALIZE's three cases. -/
theorem finalizeFlushesThenDone : Obligations.FinalizeFlushesThenDone := by
  intro s hphase hsp
  have hf : s.finalizeEnabled := ⟨hphase, hsp⟩
  rw [exec_finalize_of_enabled hf]
  refine ⟨fun hq => State.select_finalize hq hf, fun hv => ?empty, fun hv ha => ?accept, fun hv ha => ?reject⟩
  case empty =>
    rw [State.finalize_empty hv]
    rfl
  case accept =>
    rw [State.finalize_accept hv ha, packByte_eq_append]
    rfl
  case reject =>
    rw [State.finalize_reject hv ha]
    rfl

/-! The run of one pixel (R178): one SHORT1 into an empty buffer, flushed by FINALIZE. -/

/-- At the last pixel DETECT has nothing to compare: the run is that pixel. -/
theorem State.detect_last_pixel {s : State} (hsp : s.sp + 1 = s.dlen) (hmem : s.dlen ≤ s.cfg.arrLen) :
    s.detect = .ok { colour := pixelColour (Memory.read s.pix s.sp), length := 1 } := by
  obtain ⟨len, hd, hpos, hle, -, -⟩ := s.detect_spec (by omega) hmem
  obtain rfl : len = 1 := by omega
  exact hd

theorem classify_one (c : Colour) : classify c 1 = .short1 c := rfl

/-- SHORT1 from an empty buffer offers no byte: its nibble is held (R141, R170). -/
theorem State.runUnit_short1_empty {s : State} (hv : s.nibValid = false) (c : Colour) :
    s.runUnit (.short1 c) = (s.holdNibble (c.setWidth 4 ||| (1#4 <<< 2))).advance 1 := by
  simp [State.runUnit, encode, State.emitAll, State.emit_empty hv, Instr.pixels]

/-- A SHORT1 nibble with a zero low half below it is R178's byte. -/
theorem packByte_short1_zero : ∀ c : Colour,
    packByte (c.setWidth 4 ||| (1#4 <<< 2)) 0#4 = (c.setWidth 8 ||| (1#8 <<< 2)) <<< 4 := by decide

/-- The step at the last pixel with an empty buffer: its nibble is held, and SP meets DLEN. -/
theorem step_last_pixel_empty {s : State} (hq : s.quietNow) (hphase : s.phase = .running) (hsp : s.sp + 1 = s.dlen)
    (hmem : s.dlen ≤ s.cfg.arrLen) (hv : s.nibValid = false) :
    step s = .next ((s.holdNibble
      ((pixelColour (Memory.read s.pix s.sp)).setWidth 4 ||| (1#4 <<< 2))).advance 1).advanceHost := by
  have hstep := step_of_stepEnabled hq ⟨hphase, by omega⟩ (State.detect_last_pixel hsp hmem)
  rw [hstep, classify_one, State.runUnit_short1_empty hv]

/-- The last step of a run with a nibble pending and a sink that accepts it. -/
theorem step_finalize_accept {s : State} (hq : s.quietNow) (hf : s.finalizeEnabled) (hv : s.nibValid = true)
    (ha : s.sinkAnswer = .accept) :
    step s = .next
      ((s.takeAnswer.appendOut (packByte s.nibHold 0#4)).clearNibble.setPhase .done).advanceHost := by
  rw [step_of_finalizeEnabled hq hf, State.finalize_accept hv ha]

/-- A run goes on from the state its first step answers. -/
theorem run_succ {s t : State} (h : step s = .next t) (k : Nat) :
    Sys2Proof.core.run (k + 1) s = Sys2Proof.core.run k t := by
  have hstep : Sys2Proof.core.step s = .next t := h
  simp only [Host.Core.run, hstep]

/-- Settles O41: STEP holds the one SHORT1 nibble, and FINALIZE flushes it. -/
theorem onePixelGivesOneByte : Obligations.OnePixelGivesOneByte := by
  intro s hphase hsp hdlen hmem hv hout hquiet ha
  have hend : s.sp + 1 = s.dlen := by omega
  have hquiet' : s.host.tail = [] := by rw [hquiet, List.tail_nil]
  have hheld := step_last_pixel_empty (State.quietNow_of_quiet hquiet) hphase hend (hdlen ▸ hmem) hv
  rw [run_succ hheld 1, run_succ (step_finalize_accept ?quiet ?enabled ?pending ?accept) 0]
  case quiet => exact State.quietNow_of_quiet hquiet'
  case enabled => exact ⟨hphase, hend⟩
  case pending => rfl
  case accept => exact ha
  refine ⟨_, rfl, rfl, ?_⟩
  show s.out ++ [packByte ((pixelColour (Memory.read s.pix s.sp)).setWidth 4 ||| (1#4 <<< 2)) 0#4] = _
  rw [hout, hsp, packByte_short1_zero, List.nil_append]

end Sys2Proof.Machine

/-!
PROOFS. The input ports (70_reset_and_hazards.md R233): START alone reads the dimensions. Every other instruction leaves the
host schedule as it finds it and reads none of it, so a step that fires no START depends on the ports through the selector
alone, and the selector reads RST and CMD (R100).
-/
namespace Sys2Proof.Machine

/-- The state with another host schedule. -/
def State.withHost (hs : List Drive) (s : State) : State := { s with host := hs }

section Schedule
variable (hs : List Drive) (s : State)

/-! Run detection reads PIX, SP, DLEN and the parameters. -/

theorem State.matching_withHost (r : Byte) (fuel i : Nat) :
    (s.withHost hs).matching r fuel i = s.matching r fuel i := by
  have hread : ∀ j, (s.withHost hs).pixRead j = s.pixRead j := fun _ => rfl
  have hcfg : (s.withHost hs).cfg = s.cfg := rfl
  induction fuel generalizing i with
  | zero => rfl
  | succ fuel ih => simp only [State.matching, hread, hcfg, ih]

theorem State.detect_withHost : (s.withHost hs).detect = s.detect := by
  have hread : (s.withHost hs).pixRead (s.withHost hs).sp = s.pixRead s.sp := rfl
  simp only [State.detect, hread, State.matching_withHost]
  rfl

theorem State.selectedUnit_withHost : (s.withHost hs).selectedUnit = s.selectedUnit := by
  simp only [State.selectedUnit, State.detect_withHost]
  rfl

/-! Emission and FINALIZE keep the schedule. -/

theorem State.emit_withHost (u : Nibble) :
    (s.withHost hs).emit u = ((s.emit u).map (State.withHost hs)).mapError (State.withHost hs) := by
  cases hv : s.nibValid with
  | false => rw [State.emit_empty hv]; exact State.emit_empty (s := s.withHost hs) hv u
  | true =>
    cases ha : s.sinkAnswer with
    | accept => rw [State.emit_accept hv ha]; exact State.emit_accept (s := s.withHost hs) hv ha u
    | reject => rw [State.emit_reject hv ha]; exact State.emit_reject (s := s.withHost hs) hv ha u

theorem State.emitAll_withHost (us : List Nibble) :
    (s.withHost hs).emitAll us = ((s.emitAll us).map (State.withHost hs)).mapError (State.withHost hs) := by
  induction us generalizing s with
  | nil => rfl
  | cons u us ih =>
    simp only [State.emitAll, State.emit_withHost]
    cases s.emit u with
    | ok t => exact ih t
    | error t => rfl

theorem State.runUnit_withHost (u : Instr) : (s.withHost hs).runUnit u = (s.runUnit u).withHost hs := by
  simp only [State.runUnit, State.emitAll_withHost]
  cases s.emitAll (encode u) <;> rfl

theorem State.fireUnit_withHost (u : Instr) :
    (s.withHost hs).fireUnit u = mapNext (State.withHost hs) (s.fireUnit u) := by
  simp only [State.fireUnit, State.selectedUnit_withHost, State.runUnit_withHost]
  rcases s.selectedUnit with f | _ | v
  · rfl
  · rfl
  · exact (apply_ite (mapNext (State.withHost hs)) (v = u) (.next (s.runUnit u)) (.next s)).symm

theorem State.finalize_withHost : (s.withHost hs).finalize = s.finalize.withHost hs := by
  cases hv : s.nibValid with
  | false => rw [State.finalize_empty hv]; exact State.finalize_empty (s := s.withHost hs) hv
  | true =>
    cases ha : s.sinkAnswer with
    | accept => rw [State.finalize_accept hv ha]; exact State.finalize_accept (s := s.withHost hs) hv ha
    | reject => rw [State.finalize_reject hv ha]; exact State.finalize_reject (s := s.withHost hs) hv ha

/-- Every instruction but START does the same under every host schedule, which it keeps (R233). -/
theorem exec_withHost {i : Instr} (hi : i ≠ .start) :
    exec i (s.withHost hs) = mapNext (State.withHost hs) (exec i s) := by
  cases i with
  | short1 c => exact State.fireUnit_withHost hs s _
  | short2 c => exact State.fireUnit_withHost hs s _
  | short3 c => exact State.fireUnit_withHost hs s _
  | esclit c v => exact State.fireUnit_withHost hs s _
  | escpow c k => exact State.fireUnit_withHost hs s _
  | reset => rfl
  | start => exact absurd rfl hi
  | step =>
    simp only [exec, execStep, State.selectedUnit_withHost, State.runUnit_withHost]
    rcases s.selectedUnit with f | _ | v <;> rfl
  | finalize =>
    simp only [exec, execFinalize, State.finalize_withHost, apply_ite (mapNext (State.withHost hs))]
    rfl
  | detect =>
    simp only [exec, execDetect, State.detect_withHost, apply_ite (mapNext (State.withHost hs))]
    cases s.detect <;> rfl
  | classify c len =>
    simp only [exec, execClassify, apply_ite (mapNext (State.withHost hs))]
    rfl
  | emitNibble u =>
    simp only [exec, execEmitNibble, State.emit_withHost]
    cases s.emit u <;> rfl

/-- Moving on drops the schedule's head, which the operation kept. -/
theorem moveOn_mapNext_withHost (o : Host.Outcome State Fault Refusal) :
    moveOn (mapNext (State.withHost hs) o) = mapNext (State.withHost hs.tail) o := by
  cases o <;> rfl

end Schedule

/-- The selector reads RST and CMD, and no dimension (R100). -/
theorem State.select_withHost_cons {d d' : Drive} (hrst : d.rst = d'.rst) (hcmd : d.cmd = d'.cmd) (ds : List Drive)
    (s : State) : (s.withHost (d :: ds)).select = (s.withHost (d' :: ds)).select := by
  have hrst' : (s.withHost (d :: ds)).ports.rst = (s.withHost (d' :: ds)).ports.rst := hrst
  have hcmd' : (s.withHost (d :: ds)).ports.cmd = (s.withHost (d' :: ds)).ports.cmd := hcmd
  simp only [State.select, hrst', hcmd']
  rfl

/-- The selector fires START in IDLE alone, with RST = 0 and CMD = START (R100 item 3, R102). -/
theorem State.enabled_of_select_start {s : State} (h : s.select = .operation .start) :
    s.phase = .idle ∧ s.ports.rst = false ∧ s.ports.cmd = 1#2 := by
  cases hrst : s.ports.rst with
  | true => simp [State.select, hrst] at h
  | false =>
    cases hc : decodeCommand s.ports.cmd with
    | reserved c => simp [State.select, hrst, hc] at h
    | start =>
      by_cases hp : s.phase = .idle
      · exact ⟨hp, rfl, (decodeCommand_start_iff _).mp hc⟩
      · simp [State.select, hrst, hc, hp] at h
    | none =>
      rw [State.select_of_quietNow ⟨hrst, (decodeCommand_none_iff _).mp hc⟩] at h
      split_ifs at h <;> cases h

/-- Settles O51: the selector answers the same, and what it selects is not START. -/
theorem dimensionsReadOnlyByStart : Obligations.DimensionsReadOnlyByStart := by
  intro s d d' ds hnot hrst hcmd
  have hne : (s.withHost (d :: ds)).select ≠ .operation .start := by
    intro h
    obtain ⟨hidle, hrst0, hstart⟩ := State.enabled_of_select_start h
    rcases hnot with hphase | hrst1 | hother
    · exact hphase hidle
    · exact Bool.false_ne_true (hrst0.symm.trans hrst1)
    · exact hother hstart
  change step (s.withHost (d :: ds)) = step (s.withHost (d' :: ds))
  simp only [step, ← State.select_withHost_cons hrst hcmd]
  cases hsel : (s.withHost (d :: ds)).select with
  | operation i =>
    have hi : i ≠ .start := fun h => hne (h ▸ hsel)
    simp only [exec_withHost _ _ hi, moveOn_mapNext_withHost, List.tail_cons]
  | wait => rfl
  | refuse r => rfl

end Sys2Proof.Machine

/-!
PROOFS. The round trip of the unit format (30_encoding.md R75, R79, R80): decoding undoes encoding, for one unit in front of
any rest and for a list of units; and the decoder reads nothing but encodings of well-formed units.
-/
namespace Sys2Proof

/-- An instruction that has an encoding in the stream, with its operands in range (R70, R74). -/
abbrev Instr.encodable (i : Instr) : Prop := i.isUnit = true ∧ i.wellFormed = true

/-! Decoding what the encoder gives. -/

theorem decodeUnit_encode_append {i : Instr} (hi : i.encodable) (rest : List Nibble) :
    decodeUnit (encode i ++ rest) = .ok (i, rest) := by
  rcases encode_shape i hi.1 hi.2 with ⟨a, henc, hshort⟩ | ⟨a, b, henc, hshort, hesc⟩ <;> rw [henc]
  · exact decodeUnit_of_shortUnit hshort rest
  · exact hesc ▸ decodeUnit_of_escape hshort b rest

theorem decodeUnits_encode_append {i : Instr} (hi : i.encodable) (pad : Bool) (rest : List Nibble) :
    decodeUnits pad (encode i ++ rest) = consUnit i (decodeUnits pad rest) := by
  rcases encode_shape i hi.1 hi.2 with ⟨a, henc, hshort⟩ | ⟨a, b, henc, hshort, hesc⟩ <;> rw [henc]
  · cases rest with
    | nil => simp only [List.append_nil, decodeUnits, hshort, consUnit]
    | cons v vs => simp only [List.singleton_append, decodeUnits, hshort]
  · simp only [List.cons_append, List.nil_append, decodeUnits, hshort, hesc]

/-- What follows whole units is decoded by itself. -/
theorem decodeUnits_units_append {is js : List Instr} {pad : Bool} {rest : List Nibble} (his : ∀ i ∈ is, i.encodable)
    (hrest : decodeUnits pad rest = .ok js) : decodeUnits pad (is.flatMap encode ++ rest) = .ok (is ++ js) := by
  induction is with
  | nil => exact hrest
  | cons i is ih =>
    obtain ⟨hi, his⟩ := List.forall_mem_cons.mp his
    rw [List.flatMap_cons, List.append_assoc, decodeUnits_encode_append hi, ih his]
    rfl

theorem decodeUnits_units {is : List Instr} (his : ∀ i ∈ is, i.encodable) (pad : Bool) :
    decodeUnits pad (is.flatMap encode) = .ok is := by
  have h := decodeUnits_units_append his (pad := pad) (rest := []) rfl
  rwa [List.append_nil, List.append_nil] at h

/-- R80's padding: a zero nibble after whole units decodes to nothing. -/
theorem decodeUnits_units_padding {is : List Instr} (his : ∀ i ∈ is, i.encodable) :
    decodeUnits true (is.flatMap encode ++ [0#4]) = .ok is := by
  have h := decodeUnits_units_append his (pad := true) (rest := [0#4]) rfl
  rwa [List.append_nil] at h

/-- Settles O1: one unit by the two shapes of an encoding, a list of units by induction. -/
theorem decodeOfEncodedUnits : Obligations.DecodeOfEncodedUnits :=
  ⟨fun _ rest hu hw => decodeUnit_encode_append ⟨hu, hw⟩ rest, fun _ pad his => decodeUnits_units his pad⟩

/-! What the decoder reads. -/

theorem encode_of_shortUnit : ∀ u : Nibble, ∀ i ∈ shortUnit u, i.encodable ∧ encode i = [u] := by
  decide

theorem setWidth_nibbleColour : ∀ u : Nibble, shortUnit u = none → (nibbleColour u).setWidth 4 = u := by decide

/-- An escape nibble and the nibble after it are the encoding of the escape unit they stand for. -/
theorem encode_escapeUnit {u : Nibble} (hu : shortUnit u = none) (v : Nibble) :
    (escapeUnit u v).encodable ∧ encode (escapeUnit u v) = [u, v] := by
  have hc := setWidth_nibbleColour u hu
  by_cases hv : 7 ≤ v.toNat
  · rw [escapeUnit, if_pos hv]
    exact ⟨⟨rfl, decide_eq_true hv⟩, by rw [encode, hc]⟩
  · rw [escapeUnit, if_neg hv]
    exact ⟨⟨rfl, decide_eq_true (by omega)⟩, by rw [encode, hc]⟩

theorem encodable_of_decodeUnit {ns rest : List Nibble} {i : Instr} (h : decodeUnit ns = .ok (i, rest)) :
    i.encodable ∧ ns = encode i ++ rest := by
  match ns with
  | [] => cases h
  | u :: ns =>
    cases hu : shortUnit u with
    | some j =>
      rw [decodeUnit_of_shortUnit hu] at h
      cases h
      obtain ⟨hi, henc⟩ := encode_of_shortUnit u i hu
      exact ⟨hi, by rw [henc]; rfl⟩
    | none =>
      match ns with
      | [] => simp [decodeUnit, hu] at h
      | v :: vs =>
        rw [decodeUnit_of_escape hu] at h
        cases h
        obtain ⟨hi, henc⟩ := encode_escapeUnit hu v
        exact ⟨hi, by rw [henc]; rfl⟩

/-- Settles O2: by the first nibble, a short form or an escape. -/
theorem decodedUnitIsWhatWasEncoded : Obligations.DecodedUnitIsWhatWasEncoded := by
  intro ns rest i h
  obtain ⟨⟨hu, hw⟩, hns⟩ := encodable_of_decodeUnit h
  exact ⟨hu, hw, hns⟩

theorem consUnit_ok {i : Instr} {r : Except DecodeError (List Instr)} {is : List Instr} (h : consUnit i r = .ok is) :
    ∃ js, r = .ok js ∧ is = i :: js := by
  cases r with
  | error e => cases h
  | ok js => cases h; exact ⟨js, rfl, rfl⟩

/-- Without padding, a stream that decodes is the encoding of the units it decodes to. -/
theorem eq_encode_of_decodeUnits {ns : List Nibble} {is : List Instr} (h : decodeUnits false ns = .ok is) :
    (∀ i ∈ is, i.encodable) ∧ ns = is.flatMap encode := by
  induction ns using decodeUnits.induct (pad := false) generalizing is with
  | case1 => cases h; exact ⟨nofun, rfl⟩
  | case2 u i hu =>
    simp only [decodeUnits, hu] at h
    cases h
    obtain ⟨hi, henc⟩ := encode_of_shortUnit u i hu
    exact ⟨List.forall_mem_singleton.mpr hi, by simp [henc]⟩
  | case3 u hu hpad => exact absurd hpad.1 Bool.false_ne_true
  | case4 u hu hpad => simp [decodeUnits, hu] at h
  | case5 u v rest i hu ih =>
    simp only [decodeUnits, hu] at h
    obtain ⟨js, hjs, rfl⟩ := consUnit_ok h
    obtain ⟨hall, hrest⟩ := ih hjs
    obtain ⟨hi, henc⟩ := encode_of_shortUnit u i hu
    exact ⟨List.forall_mem_cons.mpr ⟨hi, hall⟩, by rw [List.flatMap_cons, henc, ← hrest]; rfl⟩
  | case6 u v rest hu ih =>
    simp only [decodeUnits, hu] at h
    obtain ⟨js, hjs, rfl⟩ := consUnit_ok h
    obtain ⟨hall, hrest⟩ := ih hjs
    obtain ⟨hi, henc⟩ := encode_escapeUnit hu v
    exact ⟨List.forall_mem_cons.mpr ⟨hi, hall⟩, by rw [List.flatMap_cons, henc, ← hrest]; rfl⟩

/-- Settles O4: the words are evaluated. -/
theorem unitWordsDecode : Obligations.UnitWordsDecode := by
  unfold Obligations.UnitWordsDecode
  decide

/-- Settles O5: the codes are evaluated. -/
theorem statusAndCommandCodes : Obligations.StatusAndCommandCodes := by
  unfold Obligations.StatusAndCommandCodes
  decide

end Sys2Proof

/-!
PROOFS. One step of the machine as a relation (R100, R101): what each operation answers is described by the registers it
writes and by the byte it may offer, and a step is one of seven transitions. The statements about every step are case
analyses over these.
-/
namespace Sys2Proof.Machine

/-! What no operation of a step writes, and the one byte an operation may offer. -/

/-- The parameters, the pixel memory, the host schedule and the model's two records are the same. -/
structure State.SameLaunch (s t : State) : Prop where
  cfg        : t.cfg = s.cfg
  pix        : t.pix = s.pix
  host       : t.host = s.host
  detected   : t.detected = s.detected
  classified : t.classified = s.classified

/-- No byte is offered, or one byte is and the sink accepts it (R53). -/
def State.OffersAtMostOne (s t : State) : Prop :=
  (t.out = s.out ∧ t.sink = s.sink ∧ t.draws = s.draws) ∨
  (s.sinkAnswer = .accept ∧ (∃ b, t.out = s.out ++ [b]) ∧ t.sink = s.sink.tail ∧ t.draws = s.draws + 1)

theorem State.OffersAtMostOne.out_cases {s t : State} (h : s.OffersAtMostOne t) :
    t.out = s.out ∨ ∃ b, t.out = s.out ++ [b] := by
  rcases h with ⟨hout, -, -⟩ | ⟨-, hout, -, -⟩
  · exact .inl hout
  · exact .inr hout

theorem State.OffersAtMostOne.out_prefix {s t : State} (h : s.OffersAtMostOne t) : s.out <+: t.out := by
  rcases h.out_cases with heq | ⟨b, heq⟩ <;> rw [heq]
  exact List.prefix_append s.out [b]

theorem State.OffersAtMostOne.sink_cases {s t : State} (h : s.OffersAtMostOne t) :
    t.sink = s.sink ∨ t.sink = s.sink.tail := by
  rcases h with ⟨-, hsink, -⟩ | ⟨-, -, hsink, -⟩
  · exact .inl hsink
  · exact .inr hsink

/-- Unit `u`'s share of a STEP, completed (R103): its nibbles join the stream, SP moves past its pixels. -/
structure State.Emits (s : State) (u : Instr) (t : State) : Prop where
  launch  : s.SameLaunch t
  phase   : t.phase = s.phase
  err     : t.err = s.err
  dlen    : t.dlen = s.dlen
  sp      : t.sp = s.sp + u.pixels
  nibbles : t.nibbles = s.nibbles ++ encode u
  hold    : t.nibValid = false → t.nibHold = 0#4
  offer   : s.OffersAtMostOne t

/-- FINALIZE, completed (R172): DONE, with the bytes of OUT holding every nibble and the padding of an odd count. -/
structure State.Finishes (s t : State) : Prop where
  launch  : s.SameLaunch t
  phase   : t.phase = .done
  err     : t.err = s.err
  dlen    : t.dlen = s.dlen
  sp      : t.sp = s.sp
  bytes   : t.out.flatMap byteNibbles = s.nibbles ++ (if s.nibValid then [0#4] else [])
  flushed : t.nibValid = false
  hold    : (s.nibValid = false → s.nibHold = 0#4) → t.nibHold = 0#4
  offer   : s.OffersAtMostOne t

/-! The nibble stream (R52, R36). -/

theorem State.nibbles_empty {s : State} (hv : s.nibValid = false) : s.nibbles = s.out.flatMap byteNibbles := by
  simp [State.nibbles, hv]

theorem State.nibbles_pending {s : State} (hv : s.nibValid = true) :
    s.nibbles = s.out.flatMap byteNibbles ++ [s.nibHold] := by
  simp [State.nibbles, hv]

theorem State.nibbles_holdNibble {s : State} (hv : s.nibValid = false) (a : Nibble) :
    (s.holdNibble a).nibbles = s.nibbles ++ [a] := by
  rw [State.nibbles_empty hv]
  rfl

/-- The bytes after a completed byte are the nibbles before it and the one that completed it. -/
theorem flatMap_byteNibbles_packByte {s : State} (hv : s.nibValid = true) (a : Nibble) :
    (s.out ++ [packByte s.nibHold a]).flatMap byteNibbles = s.nibbles ++ [a] := by
  simp [State.nibbles_pending hv, byteNibbles_packByte]

theorem State.nibbles_completeByte {s : State} (hv : s.nibValid = true) (a : Nibble) :
    (s.takeAnswer.appendOut (packByte s.nibHold a)).clearNibble.nibbles = s.nibbles ++ [a] :=
  (State.nibbles_empty rfl).trans (flatMap_byteNibbles_packByte hv a)

@[simp] theorem State.nibbles_advance (s : State) (n : Nat) : (s.advance n).nibbles = s.nibbles := rfl

/-! What a unit's share of a STEP and FINALIZE answer. -/

/-- A unit is emitted whole, or the byte it offers is rejected and nothing is kept (R103, R203). -/
theorem State.runUnit_emits_or_rejected (s : State) {u : Instr} (hu : u.encodable) :
    s.Emits u (s.runUnit u) ∨
      (s.sinkAnswer = .reject ∧ s.runUnit u = s.raiseError s.takeAnswer .outputWriteFailure) := by
  rcases encode_shape u hu.1 hu.2 with ⟨a, henc, -⟩ | ⟨a, b, henc, -, -⟩
  · rcases s.runUnit_one henc with ⟨hv, hrun⟩ | ⟨hv, ha, hrun⟩ | ⟨hv, ha, hrun⟩
    · rw [hrun]
      refine .inl ⟨⟨rfl, rfl, rfl, rfl, rfl⟩, rfl, rfl, rfl, rfl, ?_, nofun, .inl ⟨rfl, rfl, rfl⟩⟩
      rw [henc, State.nibbles_advance, State.nibbles_holdNibble hv]
    · rw [hrun]
      refine .inl ⟨⟨rfl, rfl, rfl, rfl, rfl⟩, rfl, rfl, rfl, rfl, ?_, fun _ => rfl, .inr ⟨ha, ⟨_, rfl⟩, rfl, rfl⟩⟩
      rw [henc, State.nibbles_advance, State.nibbles_completeByte hv]
    · exact .inr ⟨ha, hrun⟩
  · rcases s.runUnit_two henc with ⟨hv, ha, hrun⟩ | ⟨hv, ha, hrun⟩ | ⟨ha, hrun⟩
    · rw [hrun]
      refine .inl ⟨⟨rfl, rfl, rfl, rfl, rfl⟩, rfl, rfl, rfl, rfl, ?_, fun _ => rfl, .inr ⟨ha, ⟨_, rfl⟩, rfl, rfl⟩⟩
      have hbyte := State.nibbles_completeByte (s := s.holdNibble a) rfl b
      rw [henc, State.nibbles_advance]
      exact hbyte.trans (by simp [State.nibbles_holdNibble hv])
    · rw [hrun]
      refine .inl ⟨⟨rfl, rfl, rfl, rfl, rfl⟩, rfl, rfl, rfl, rfl, ?_, nofun, .inr ⟨ha, ⟨_, rfl⟩, rfl, rfl⟩⟩
      rw [henc, State.nibbles_advance, State.nibbles_holdNibble rfl, State.nibbles_completeByte hv]
      simp
    · exact .inr ⟨ha, hrun⟩

/-- FINALIZE reaches DONE, or the byte it offers is rejected and nothing is kept (R172, R203). -/
theorem State.finalize_finishes_or_rejected (s : State) :
    s.Finishes s.finalize ∨
      (s.nibValid = true ∧ s.sinkAnswer = .reject ∧ s.finalize = s.raiseError s.takeAnswer .outputWriteFailure) := by
  rcases s.finalize_cases with ⟨hv, hfin⟩ | ⟨hv, ha, hfin⟩ | hrej
  · rw [hfin]
    refine .inl ⟨⟨rfl, rfl, rfl, rfl, rfl⟩, rfl, rfl, rfl, rfl, ?_, hv, fun h => h hv, .inl ⟨rfl, rfl, rfl⟩⟩
    simp [State.nibbles_empty hv, hv]
  · rw [hfin]
    refine .inl ⟨⟨rfl, rfl, rfl, rfl, rfl⟩, rfl, rfl, rfl, rfl, ?_, rfl, fun _ => rfl, .inr ⟨ha, ⟨_, rfl⟩, rfl, rfl⟩⟩
    rw [hv]
    exact flatMap_byteNibbles_packByte hv 0#4
  · exact .inr hrej

/-! DETECT and CLASSIFY inside a STEP. -/

/-- R120: the pixel at SP counts, so a detected run has a pixel. -/
theorem State.detect_length_pos {s : State} {r : Run} (h : s.detect = .ok r) : 1 ≤ r.length := by
  unfold State.detect at h
  split at h
  · cases h
  · split at h
    · cases h
    · cases h
      exact Nat.succ_pos _

theorem classify_encodable {len : Nat} (h : 1 ≤ len) (c : Colour) : (classify c len).encodable := by
  obtain ⟨hu, hw, -⟩ := classify_bounds c len h
  exact ⟨hu, hw⟩

/-- The run DETECT finds in a sound state: it lies below DLEN, and its pixels have its colour (R120, R122). -/
theorem State.detect_run {s : State} {r : Run} (hd : s.detect = .ok r) (hsp : s.sp < s.dlen)
    (hmem : s.dlen ≤ s.cfg.arrLen) :
    s.sp + r.length ≤ s.dlen ∧ ∀ j < r.length, pixelColour (Memory.read s.pix (s.sp + j)) = r.colour := by
  obtain ⟨len, hlen, -, hle, hall, -⟩ := s.detect_spec hsp hmem
  obtain rfl := Except.ok.inj (hd.symm.trans hlen)
  exact ⟨hle, fun j hj => pixelColour_of_key (hall j hj)⟩

/-! The transitions. -/

/-- Everything a step can do before the host's levels move on. -/
inductive State.Transition (s : State) : State → Prop
  /-- RESET (R230). -/
  | reset (hrst : s.ports.rst = true) : Transition s s.resetRegs
  /-- START with good dimensions (R102). -/
  | begin {n : Nat} (hrst : s.ports.rst = false) (hidle : s.phase = .idle) (hcmd : s.ports.cmd = 1#2) (hpos : 1 ≤ n)
      (hfits : n ≤ 2 ^ s.cfg.lenW - 1) (hmem : n ≤ s.cfg.arrLen) : Transition s (s.beginRun n)
  /-- START with a dimension error (R200, R201). -/
  | badLaunch {code : ErrCode} (hrst : s.ports.rst = false) (hidle : s.phase = .idle) (hcmd : s.ports.cmd = 1#2)
      (hcode : code = .emptyInput ∨ code = .invalidDimensions)
      (hexec : exec .start s = .next (s.raiseError s code)) : Transition s (s.raiseError s code)
  /-- STEP, completed (R103). -/
  | emit {r : Run} {t : State} (hrst : s.ports.rst = false) (henabled : s.stepEnabled) (hd : s.detect = .ok r)
      (hemits : s.Emits (classify r.colour r.length) t) : Transition s t
  /-- FINALIZE, completed (R172). -/
  | finish {t : State} (hrst : s.ports.rst = false) (henabled : s.finalizeEnabled) (hfin : s.Finishes t) :
      Transition s t
  /-- STEP or FINALIZE with a rejected byte (R202). -/
  | reject (hrst : s.ports.rst = false) (hrun : s.phase = .running) (hanswer : s.sinkAnswer = .reject) :
      Transition s (s.raiseError s.takeAnswer .outputWriteFailure)
  /-- Nothing is enabled (R100 item 6). -/
  | wait (hrst : s.ports.rst = false) (hstep : ¬ s.stepEnabled) (hfin : ¬ s.finalizeEnabled) : Transition s s

theorem exec_start_idle {s : State} (h : s.phase = .idle) : exec .start s =
    .next (s.start (dimension s.cfg s.ports.cfgWidth) (dimension s.cfg s.ports.cfgHeight)) := if_pos h

/-- START's outcome in IDLE is one of its two transitions. -/
theorem State.Transition.of_start {s : State} (hrst : s.ports.rst = false) (hidle : s.phase = .idle)
    (hcmd : s.ports.cmd = 1#2) :
    s.Transition (s.start (dimension s.cfg s.ports.cfgWidth) (dimension s.cfg s.ports.cfgHeight)) := by
  have hexec := exec_start_idle hidle
  generalize dimension s.cfg s.ports.cfgWidth = w at hexec ⊢
  generalize dimension s.cfg s.ports.cfgHeight = h at hexec ⊢
  rcases s.start_cases w h with ⟨-, hs⟩ | ⟨-, -, hs⟩ | ⟨hw, hh, hfits, hmem, hs⟩
  · exact hs ▸ .badLaunch hrst hidle hcmd (.inl rfl) (hs ▸ hexec)
  · exact hs ▸ .badLaunch hrst hidle hcmd (.inr rfl) (hs ▸ hexec)
  · have hpos : 0 < w * h := Int.mul_pos hw hh
    have hpow : ((2 ^ s.cfg.lenW : Nat) : Int) = (2 : Int) ^ s.cfg.lenW := by norm_cast
    exact hs ▸ .begin hrst hidle hcmd (by omega) (by omega) (by omega)

/-- Every step that answers a next state is a transition, after which the host's levels move on. -/
theorem exists_transition_of_step {s t : State} (h : step s = .next t) :
    ∃ m, s.Transition m ∧ t = m.advanceHost := by
  rcases step_cases h with ⟨hrst, rfl⟩ | ⟨hrst, hidle, hcmd, rfl⟩ | ⟨hrst, -, he, r, hd, rfl⟩ | ⟨hrst, -, hf, rfl⟩ |
    ⟨hrst, -, hstep, hfin, rfl⟩
  · exact ⟨_, .reset hrst, rfl⟩
  · exact ⟨_, .of_start hrst hidle hcmd, rfl⟩
  · rcases s.runUnit_emits_or_rejected (classify_encodable (State.detect_length_pos hd) r.colour) with hemits | ⟨ha, hrej⟩
    · exact ⟨_, .emit hrst he hd hemits, rfl⟩
    · exact ⟨_, .reject hrst he.1 ha, congrArg _ hrej⟩
  · rcases s.finalize_finishes_or_rejected with hdone | ⟨-, ha, hrej⟩
    · exact ⟨_, .finish hrst hf hdone, rfl⟩
    · exact ⟨_, .reject hrst hf.1 ha, congrArg _ hrej⟩
  · exact ⟨_, .wait hrst hstep hfin, rfl⟩

end Sys2Proof.Machine

/-!
PROOFS. The invariants of every step (10_state.md R24, R34; 43_nibble_packing.md R177): each holds after reset, each
transition keeps it, and neither reads the host schedule.
-/
namespace Sys2Proof.Machine

/-! The registers' invariants (R34 items 1 to 6, R24). -/

theorem State.Inv.powerUp (p : Params) : (State.powerUp p).Inv where
  sp_le_dlen := Nat.le_refl 0
  empty_holds_0 _ := rfl
  idle_is_reset _ := ⟨rfl, rfl, rfl, rfl, rfl⟩
  run_has_pixels := nofun
  done_is_flushed := nofun
  error_iff := ⟨nofun, fun h => absurd rfl h⟩
  dlen_in_memory := Nat.zero_le _
  dlen_fits := Nat.zero_le _
  pix_canonical := Memory.wf_nil

/-- Settles O34: reset is power-up with parameters of which nothing is known. -/
theorem invariantAtReset : Obligations.InvariantAtReset := ⟨.powerUp _, .powerUp⟩

theorem State.Inv.advanceHost {s : State} (h : s.Inv) : s.advanceHost.Inv :=
  ⟨h.sp_le_dlen, h.empty_holds_0, h.idle_is_reset, h.run_has_pixels, h.done_is_flushed, h.error_iff, h.dlen_in_memory,
    h.dlen_fits, h.pix_canonical⟩

theorem State.Inv.resetRegs {s : State} (h : s.Inv) : s.resetRegs.Inv where
  sp_le_dlen := Nat.le_refl 0
  empty_holds_0 _ := rfl
  idle_is_reset _ := ⟨rfl, rfl, rfl, rfl, rfl⟩
  run_has_pixels := nofun
  done_is_flushed := nofun
  error_iff := ⟨nofun, fun h => absurd rfl h⟩
  dlen_in_memory := Nat.zero_le _
  dlen_fits := Nat.zero_le _
  pix_canonical := h.pix_canonical

theorem State.Inv.beginRun {s : State} {n : Nat} (h : s.Inv) (hpos : 1 ≤ n) (hfits : n ≤ 2 ^ s.cfg.lenW - 1)
    (hmem : n ≤ s.cfg.arrLen) : (s.beginRun n).Inv where
  sp_le_dlen := Nat.zero_le n
  empty_holds_0 _ := rfl
  idle_is_reset := nofun
  run_has_pixels _ := ⟨rfl, hpos⟩
  done_is_flushed := nofun
  error_iff := ⟨nofun, fun h => absurd rfl h⟩
  dlen_in_memory := hmem
  dlen_fits := hfits
  pix_canonical := h.pix_canonical

theorem State.Inv.raiseError {s : State} (h : s.Inv) (now : State) {code : ErrCode} (hcode : code ≠ .none) :
    (s.raiseError now code).Inv where
  sp_le_dlen := h.sp_le_dlen
  empty_holds_0 := h.empty_holds_0
  idle_is_reset := nofun
  run_has_pixels := nofun
  done_is_flushed := nofun
  error_iff := ⟨fun _ => hcode, fun _ => rfl⟩
  dlen_in_memory := h.dlen_in_memory
  dlen_fits := h.dlen_fits
  pix_canonical := h.pix_canonical

/-- A completed emission in RUNNING keeps the invariants where its pixels are left to scan. -/
theorem State.Inv.emits {s t : State} {u : Instr} (h : s.Inv) (hrun : s.phase = .running) (he : s.Emits u t)
    (hleft : s.sp + u.pixels ≤ s.dlen) : t.Inv := by
  have hphase : t.phase = .running := he.phase.trans hrun
  obtain ⟨herr, hpos⟩ := h.run_has_pixels (.inl hrun)
  have hnone : t.err = .none := he.err.trans herr
  exact
    { sp_le_dlen := he.sp ▸ he.dlen ▸ hleft
      empty_holds_0 := he.hold
      idle_is_reset := by simp [hphase]
      run_has_pixels := fun _ => ⟨hnone, he.dlen ▸ hpos⟩
      done_is_flushed := by simp [hphase]
      error_iff := by simp [hphase, hnone]
      dlen_in_memory := he.dlen ▸ he.launch.cfg ▸ h.dlen_in_memory
      dlen_fits := he.dlen ▸ he.launch.cfg ▸ h.dlen_fits
      pix_canonical := he.launch.pix ▸ h.pix_canonical }

theorem State.Inv.finishes {s t : State} (h : s.Inv) (henabled : s.finalizeEnabled) (hf : s.Finishes t) : t.Inv := by
  obtain ⟨hrun, hend⟩ := henabled
  obtain ⟨herr, hpos⟩ := h.run_has_pixels (.inl hrun)
  have hnone : t.err = .none := hf.err.trans herr
  have hsp : t.sp = t.dlen := (hf.sp.trans hend).trans hf.dlen.symm
  exact
    { sp_le_dlen := Nat.le_of_eq hsp
      empty_holds_0 := fun _ => hf.hold h.empty_holds_0
      idle_is_reset := by simp [hf.phase]
      run_has_pixels := fun _ => ⟨hnone, hf.dlen ▸ hpos⟩
      done_is_flushed := fun _ => ⟨hsp, hf.flushed⟩
      error_iff := by simp [hf.phase, hnone]
      dlen_in_memory := hf.dlen ▸ hf.launch.cfg ▸ h.dlen_in_memory
      dlen_fits := hf.dlen ▸ hf.launch.cfg ▸ h.dlen_fits
      pix_canonical := hf.launch.pix ▸ h.pix_canonical }

/-- R146: the unit a STEP selects takes 1 to 1024 pixels, and no more than are left. -/
theorem State.selected_pixels {s : State} {r : Run} (hd : s.detect = .ok r) (hsp : s.sp < s.dlen)
    (hmem : s.dlen ≤ s.cfg.arrLen) :
    1 ≤ (classify r.colour r.length).pixels ∧ (classify r.colour r.length).pixels ≤ 1024 ∧
      s.sp + (classify r.colour r.length).pixels ≤ s.dlen := by
  obtain ⟨-, -, -, hpos, hle, hmax⟩ := classify_bounds r.colour r.length (State.detect_length_pos hd)
  obtain ⟨hrun, -⟩ := State.detect_run hd hsp hmem
  exact ⟨hpos, hmax, by omega⟩

theorem State.Inv.transition {s t : State} (h : s.Inv) (ht : s.Transition t) : t.Inv := by
  cases ht with
  | reset _ => exact h.resetRegs
  | begin _ _ _ hpos hfits hmem => exact h.beginRun hpos hfits hmem
  | badLaunch _ _ _ hcode _ => exact h.raiseError s (by rintro rfl; simp at hcode)
  | emit _ henabled hd he =>
    obtain ⟨hrun, hsp⟩ := henabled
    obtain ⟨-, -, hleft⟩ := State.selected_pixels hd hsp h.dlen_in_memory
    exact h.emits hrun he hleft
  | finish _ henabled hf => exact h.finishes henabled hf
  | reject _ _ _ => exact h.raiseError _ nofun
  | wait _ _ _ => exact h

/-- Settles O35: every transition keeps the invariants. -/
theorem stepKeepsInvariant : Obligations.StepKeepsInvariant := by
  intro s t h hstep
  obtain ⟨m, hm, rfl⟩ := exists_transition_of_step hstep
  exact (h.transition hm).advanceHost

/-! The stream's invariant (R177): outside DONE the emitted nibbles are whole units, and these stand for the pixels scanned;
DONE adds at most R80's padding. -/

theorem State.StreamInv.of_empty {s : State} (hnibbles : s.nibbles = []) (hsp : s.sp = 0) (hphase : s.phase ≠ .done) :
    s.StreamInv where
  emitted _ := ⟨[], by rw [hnibbles]; rfl, by rw [hsp]; rfl⟩
  complete h := absurd h hphase

/-- Settles O36: nothing is emitted, and no pixel is scanned. -/
theorem streamInvariantAtReset : Obligations.StreamInvariantAtReset :=
  ⟨.of_empty rfl rfl nofun, fun _ => .of_empty rfl rfl nofun⟩

theorem State.StreamInv.advanceHost {s : State} (h : s.StreamInv) : s.advanceHost.StreamInv := ⟨h.emitted, h.complete⟩

theorem State.StreamInv.raiseError {s : State} (h : s.StreamInv) (hphase : s.phase ≠ .done) (now : State)
    (code : ErrCode) : (s.raiseError now code).StreamInv :=
  ⟨fun _ => h.emitted hphase, nofun⟩

/-- Pixels of one colour after the first `n` add that colour, once per pixel. -/
theorem State.colours_add {s : State} {n k : Nat} {c : Colour}
    (hc : ∀ j < k, pixelColour (Memory.read s.pix (n + j)) = c) :
    s.colours (n + k) = s.colours n ++ List.replicate k c := by
  have htail : (List.range k).map (fun j => pixelColour (Memory.read s.pix (n + j))) = List.replicate k c :=
    List.map_eq_replicate_iff.mpr (fun j hj => hc j (List.mem_range.mp hj)) |>.trans (by rw [List.length_range])
  rw [State.colours, List.range_add, List.map_append, List.map_map]
  exact congrArg _ htail

theorem State.colours_congr {s t : State} (h : t.pix = s.pix) (n : Nat) : t.colours n = s.colours n := by
  rw [State.colours, h]
  rfl

/-- The colours after a selected unit are the colours before it and the unit's (R146, R177). -/
theorem State.colours_selected {s : State} {r : Run} (hd : s.detect = .ok r) (hsp : s.sp < s.dlen)
    (hmem : s.dlen ≤ s.cfg.arrLen) :
    s.colours (s.sp + (classify r.colour r.length).pixels) =
      s.colours s.sp ++ unitColours (classify r.colour r.length) := by
  obtain ⟨-, -, hcolour, -, hle, -⟩ := classify_bounds r.colour r.length (State.detect_length_pos hd)
  obtain ⟨-, hrun⟩ := State.detect_run hd hsp hmem
  rw [unitColours, hcolour]
  exact State.colours_add fun j hj => hrun j (by omega)

theorem State.StreamInv.emits {s t : State} {r : Run} (h : s.StreamInv) (henabled : s.stepEnabled)
    (hmem : s.dlen ≤ s.cfg.arrLen) (hd : s.detect = .ok r) (he : s.Emits (classify r.colour r.length) t) :
    t.StreamInv := by
  obtain ⟨hrun, hsp⟩ := henabled
  obtain ⟨is, hdec, hcols⟩ := h.emitted (by simp [hrun])
  obtain ⟨his, hnibbles⟩ := eq_encode_of_decodeUnits hdec
  have hu := classify_encodable (State.detect_length_pos hd) r.colour
  have hencoded : t.nibbles = (is ++ [classify r.colour r.length]).flatMap encode := by
    rw [he.nibbles, hnibbles]
    simp
  refine ⟨fun _ => ⟨is ++ [classify r.colour r.length], ?_, ?_⟩, fun hdone => absurd (he.phase.symm.trans hdone) ?_⟩
  · rw [hencoded]
    exact decodeUnits_units (List.forall_mem_append.mpr ⟨his, List.forall_mem_singleton.mpr hu⟩) false
  · rw [State.colours_congr he.launch.pix, he.sp, State.colours_selected hd hsp hmem, ← hcols]
    simp
  · simp [hrun]

theorem State.StreamInv.finishes {s t : State} (h : s.StreamInv) (henabled : s.finalizeEnabled) (hf : s.Finishes t) :
    t.StreamInv := by
  obtain ⟨hrun, hend⟩ := henabled
  obtain ⟨is, hdec, hcols⟩ := h.emitted (by simp [hrun])
  obtain ⟨his, hnibbles⟩ := eq_encode_of_decodeUnits hdec
  have hbytes : decodeUnits true (t.out.flatMap byteNibbles) = .ok is := by
    rw [hf.bytes, hnibbles]
    cases s.nibValid with
    | false => exact (List.append_nil (is.flatMap encode)).symm ▸ decodeUnits_units his true
    | true => exact decodeUnits_units_padding his
  refine ⟨fun hne => absurd hf.phase hne, fun _ => ?_⟩
  rw [decodeStream, hbytes, State.colours_congr hf.launch.pix, hf.dlen, ← hend, ← hcols]

theorem State.StreamInv.transition {s t : State} (h : s.StreamInv) (hinv : s.Inv) (ht : s.Transition t) :
    t.StreamInv := by
  cases ht with
  | reset _ => exact .of_empty rfl rfl nofun
  | begin _ _ _ _ _ _ => exact .of_empty rfl rfl nofun
  | badLaunch _ hidle _ _ _ => exact h.raiseError (by simp [hidle]) s _
  | emit _ henabled hd he => exact h.emits henabled hinv.dlen_in_memory hd he
  | finish _ henabled hf => exact h.finishes henabled hf
  | reject _ hrun _ => exact h.raiseError (by simp [hrun]) _ _
  | wait _ _ _ => exact h

/-- Settles O37: every transition keeps the stream's invariant. -/
theorem stepKeepsStreamInvariant : Obligations.StepKeepsStreamInvariant := by
  intro s t hinv h hstep
  obtain ⟨m, hm, rfl⟩ := exists_transition_of_step hstep
  exact (h.transition hinv hm).advanceHost

end Sys2Proof.Machine

/-!
PROOFS. What every step keeps and what it may change (10_state.md, 60_exceptions.md): the edges of PHASE, the errors and
their precision, SP, OUT and the launch, each read off the transitions; and that a sound state goes on.
-/
namespace Sys2Proof.Machine

/-- Settles O42: an emission keeps PHASE, and the other transitions are the edges of R21. -/
theorem phaseEdges : Obligations.PhaseEdges := by
  intro s t hstep hne
  obtain ⟨m, hm, rfl⟩ := exists_transition_of_step hstep
  cases hm with
  | reset hrst => exact .inr (.inr (.inr ⟨rfl, hrst⟩))
  | begin hrst hidle hcmd _ _ _ => exact .inl ⟨hidle, .inl rfl, hrst, hcmd⟩
  | badLaunch hrst hidle hcmd _ _ => exact .inl ⟨hidle, .inr rfl, hrst, hcmd⟩
  | emit _ _ _ he => exact absurd he.phase hne
  | finish hrst henabled hf => exact .inr (.inl ⟨henabled.1, hf.phase, henabled.2, hrst⟩)
  | reject hrst hrun _ => exact .inr (.inr (.inl ⟨hrun, rfl, hrst⟩))
  | wait _ _ _ => exact absurd rfl hne

/-- Settles O14: START alone raises the two; the other transitions clear ERR, keep it, or set OUTPUT_WRITE_FAILURE. -/
theorem dimensionErrorsOnlyFromStart : Obligations.DimensionErrorsOnlyFromStart := by
  intro s t hstep hne hcode
  obtain ⟨m, hm, rfl⟩ := exists_transition_of_step hstep
  cases hm with
  | badLaunch hrst hidle hcmd _ hexec => exact ⟨hrst, hcmd, hidle, hexec⟩
  | reset _ => simp at hcode
  | begin _ _ _ _ _ _ => simp at hcode
  | reject _ _ _ => simp at hcode
  | emit _ _ _ he => exact absurd he.err hne
  | finish _ _ hf => exact absurd hf.err hne
  | wait _ _ _ => exact absurd rfl hne

/-- Settles O43: ERROR is entered through `raise Error` alone (R203). -/
theorem errorsArePrecise : Obligations.ErrorsArePrecise := by
  intro s t hstep hs ht
  obtain ⟨m, hm, rfl⟩ := exists_transition_of_step hstep
  rw [State.advanceHost_phase] at ht
  cases hm with
  | badLaunch _ hidle _ hcode _ => exact ⟨rfl, rfl, rfl, rfl, rfl, by simp [hidle], fun _ => hcode⟩
  | reject _ hrun _ => exact ⟨rfl, rfl, rfl, rfl, rfl, fun _ => rfl, by simp [hrun]⟩
  | reset _ => cases ht
  | begin _ _ _ _ _ _ => cases ht
  | emit _ _ _ he => exact absurd (he.phase.symm.trans ht) hs
  | finish _ _ hf => cases hf.phase.symm.trans ht
  | wait _ _ _ => exact absurd ht hs

/-- Settles O46: RESET and START empty OUT; the other transitions offer at most one byte. -/
theorem outputIsAppendOnly : Obligations.OutputIsAppendOnly := by
  intro s t hstep
  obtain ⟨m, hm, rfl⟩ := exists_transition_of_step hstep
  cases hm with
  | reset hrst => exact .inr (.inr ⟨rfl, .inl hrst⟩)
  | begin _ hidle hcmd _ _ _ => exact .inr (.inr ⟨rfl, .inr ⟨hidle, hcmd⟩⟩)
  | emit _ _ _ he => exact he.offer.out_cases.imp_right .inl
  | finish _ _ hf => exact hf.offer.out_cases.imp_right .inl
  | badLaunch _ _ _ _ _ => exact .inl rfl
  | reject _ _ _ => exact .inl rfl
  | wait _ _ _ => exact .inl rfl

theorem State.Transition.sameLaunch {s t : State} (h : s.Transition t) : s.SameLaunch t := by
  cases h with
  | emit _ _ _ he => exact he.launch
  | finish _ _ hf => exact hf.launch
  | reset _ => exact ⟨rfl, rfl, rfl, rfl, rfl⟩
  | begin _ _ _ _ _ _ => exact ⟨rfl, rfl, rfl, rfl, rfl⟩
  | badLaunch _ _ _ _ _ => exact ⟨rfl, rfl, rfl, rfl, rfl⟩
  | reject _ _ _ => exact ⟨rfl, rfl, rfl, rfl, rfl⟩
  | wait _ _ _ => exact ⟨rfl, rfl, rfl, rfl, rfl⟩

/-- Settles O47: a transition keeps the launch, and the host schedule then drops its head. -/
theorem launchIsConstant : Obligations.LaunchIsConstant := by
  intro s t hstep
  obtain ⟨m, hm, rfl⟩ := exists_transition_of_step hstep
  obtain ⟨hcfg, hpix, hhost, -, -⟩ := hm.sameLaunch
  exact ⟨hpix, fun a => congrArg (Memory.read · a) hpix, hcfg, congrArg List.tail hhost⟩

/-- A sound RUNNING state has a pixel left to scan, or is at its end. -/
theorem State.Inv.stepEnabled_or_finalizeEnabled {s : State} (h : s.Inv) (hrun : s.phase = .running) :
    s.stepEnabled ∨ s.finalizeEnabled :=
  h.sp_le_dlen.lt_or_eq.imp (⟨hrun, ·⟩) (⟨hrun, ·⟩)

/-- Settles O45: an emission moves SP past its unit's pixels, which are left to scan; nothing else in RUNNING moves it. -/
theorem scanPositionAdvances : Obligations.ScanPositionAdvances := by
  intro s t hinv hrun hrst hstep
  obtain ⟨m, hm, rfl⟩ := exists_transition_of_step hstep
  cases hm with
  | reset hrst1 => exact absurd (hrst.symm.trans hrst1) Bool.false_ne_true
  | begin _ hidle _ _ _ _ => cases hidle.symm.trans hrun
  | badLaunch _ hidle _ _ _ => cases hidle.symm.trans hrun
  | emit _ henabled hd he =>
    obtain ⟨hpos, hmax, hleft⟩ := State.selected_pixels hd henabled.2 hinv.dlen_in_memory
    refine ⟨he.dlen, fun _ => ?_, fun hne => absurd (he.phase.trans hrun) hne⟩
    rw [State.advanceHost_sp, State.advanceHost_dlen, he.sp, he.dlen]
    omega
  | finish _ _ hf => exact ⟨hf.dlen, fun h => absurd (hf.phase.symm.trans h) nofun, fun _ => hf.sp⟩
  | reject _ _ _ => exact ⟨rfl, nofun, fun _ => rfl⟩
  | wait _ hnostep hnofin => exact ((hinv.stepEnabled_or_finalizeEnabled hrun).elim hnostep hnofin).elim

/-! A sound state goes on (R106). -/

/-- In a sound state that enables STEP, DETECT reads inside the pixel memory (R50). -/
theorem State.Inv.exists_detect {s : State} (h : s.Inv) (he : s.stepEnabled) : ∃ r, s.detect = .ok r := by
  obtain ⟨len, hd, -⟩ := s.detect_spec he.2 h.dlen_in_memory
  exact ⟨_, hd⟩

theorem step_of_reset {s : State} (hrst : s.ports.rst = true) : step s = .next s.resetRegs.advanceHost := by
  simp only [step, State.select, hrst, if_true, exec, execReset, moveOn]

theorem State.select_start {s : State} (hrst : s.ports.rst = false) (hcmd : s.ports.cmd = 1#2) :
    s.select = if s.phase = .idle then .operation .start else .refuse (.startOutsideIdle s.phase) := by
  simp [State.select, hrst, (decodeCommand_start_iff _).mpr hcmd]

theorem step_of_start {s : State} (hrst : s.ports.rst = false) (hcmd : s.ports.cmd = 1#2) (hidle : s.phase = .idle) :
    step s = .next (s.start (dimension s.cfg s.ports.cfgWidth) (dimension s.cfg s.ports.cfgHeight)).advanceHost := by
  simp only [step, State.select_start hrst hcmd, if_pos hidle, exec_start_idle hidle, moveOn]

theorem decodeCommand_reserved_iff : ∀ c : BitVec 2, decodeCommand c = .reserved c ↔ c = 2#2 ∨ c = 3#2 := by decide

theorem State.select_reserved {s : State} (hrst : s.ports.rst = false) (hcmd : s.ports.cmd = 2#2 ∨ s.ports.cmd = 3#2) :
    s.select = .refuse (.reservedCommand s.ports.cmd) := by
  simp [State.select, hrst, (decodeCommand_reserved_iff _).mpr hcmd]

theorem State.select_wait {s : State} (hq : s.quietNow) (hstep : ¬ s.stepEnabled) (hfin : ¬ s.finalizeEnabled) :
    s.select = .wait := by
  rw [State.select_of_quietNow hq, if_neg hstep, if_neg hfin]

theorem step_of_wait {s : State} (h : s.select = .wait) : step s = .next s.advanceHost := by
  simp only [step, h]

theorem step_of_refuse {s : State} {r : Refusal} (h : s.select = .refuse r) : step s = .refused r := by
  simp only [step, h]

/-- With a host that asks for nothing, a sound state answers a next state. -/
theorem State.Inv.exists_step_quietNow {s : State} (h : s.Inv) (hq : s.quietNow) : ∃ t, step s = .next t := by
  by_cases he : s.stepEnabled
  · obtain ⟨r, hd⟩ := h.exists_detect he
    exact ⟨_, step_of_stepEnabled hq he hd⟩
  · by_cases hf : s.finalizeEnabled
    · exact ⟨_, step_of_finalizeEnabled hq hf⟩
    · exact ⟨_, step_of_wait (State.select_wait hq he hf)⟩

/-- The four values of the command port (R84). -/
theorem command_cases : ∀ c : BitVec 2, c = 0#2 ∨ c = 1#2 ∨ c = 2#2 ∨ c = 3#2 := by decide

/-- A sound state answers a next state, or its command is refused (R105). -/
theorem State.Inv.step_next_or_refused {s : State} (h : s.Inv) :
    (∃ t, step s = .next t) ∨
      ∃ r, step s = .refused r ∧ s.ports.rst = false ∧ s.ports.cmd ≠ 0#2 ∧ (s.ports.cmd = 1#2 → s.phase ≠ .idle) := by
  cases hrst : s.ports.rst with
  | true => exact .inl ⟨_, step_of_reset hrst⟩
  | false =>
    rcases command_cases s.ports.cmd with hcmd | hcmd | hcmd
    · exact .inl (h.exists_step_quietNow ⟨hrst, hcmd⟩)
    · by_cases hidle : s.phase = .idle
      · exact .inl ⟨_, step_of_start hrst hcmd hidle⟩
      · have hsel := State.select_start hrst hcmd
        rw [if_neg hidle] at hsel
        exact .inr ⟨_, step_of_refuse hsel, rfl, by simp [hcmd], fun _ => hidle⟩
    · have hne : s.ports.cmd ≠ 0#2 ∧ s.ports.cmd ≠ 1#2 := by rcases hcmd with hcmd | hcmd <;> simp [hcmd]
      exact .inr ⟨_, step_of_refuse (State.select_reserved hrst hcmd), rfl, hne.1, fun h1 => absurd h1 hne.2⟩

/-- Settles O50: a next state or a refused command, and never a fault. -/
theorem soundStatesGoOn : Obligations.SoundStatesGoOn := by
  intro s h
  refine ⟨fun f hfault => ?_, fun hgo => ?_, fun hrun hq => ?_⟩
  · rcases h.step_next_or_refused with ⟨t, ht⟩ | ⟨r, hr, -⟩
    · cases ht.symm.trans hfault
    · cases hr.symm.trans hfault
  · refine h.step_next_or_refused.resolve_right ?_
    rintro ⟨r, -, hrst, hnone, hstart⟩
    rcases hgo with hrst1 | hcmd | ⟨hcmd, hidle⟩
    · exact Bool.false_ne_true (hrst.symm.trans hrst1)
    · exact hnone hcmd
    · exact hstart hcmd hidle
  · exact (h.stepEnabled_or_finalizeEnabled hrun).imp (State.select_step hq) (State.select_finalize hq)

/-- Outside RUNNING, a host that asks for nothing lets the block wait (R100 item 6). -/
theorem step_of_waiting {s : State} (hq : s.quietNow) (hphase : s.phase ≠ .running) : step s = .next s.advanceHost :=
  step_of_wait (State.select_wait hq (fun he => hphase he.1) fun hf => hphase hf.1)

/-- Settles O44: the wait, and the edges of PHASE that leave ERROR. -/
theorem waitingAndTerminalStates : Obligations.WaitingAndTerminalStates := by
  refine ⟨fun s hq hphase => step_of_waiting hq hphase, fun s t hstep herror hleft => ?_⟩
  rcases phaseEdges s t hstep (herror ▸ hleft) with ⟨hidle, -⟩ | ⟨hrun, -⟩ | ⟨hrun, -⟩ | ⟨hidle, hrst⟩
  · cases herror.symm.trans hidle
  · cases herror.symm.trans hrun
  · cases herror.symm.trans hrun
  · exact ⟨hrst, hidle⟩

end Sys2Proof.Machine

/-!
PROOFS. The operations by equations, one per case: START's checks (R102, R204), the emission of one and of two nibbles (R170),
and with them what each unit form, STEP and EMIT_NIBBLE answer (R141 to R145, R103).
-/
namespace Sys2Proof.Machine

/-! START's checks in their order. -/

theorem State.start_empty {w h : Int} (hzero : w = 0 ∨ h = 0) (s : State) : s.start w h = s.raiseError s .emptyInput :=
  if_pos hzero

theorem State.start_negative {w h : Int} (hw : w ≠ 0) (hh : h ≠ 0) (hneg : w < 0 ∨ h < 0) (s : State) :
    s.start w h = s.raiseError s .invalidDimensions := by
  rw [State.start, if_neg (not_or.mpr ⟨hw, hh⟩), if_pos hneg]

theorem State.start_positive {w h : Int} (hw : 0 < w) (hh : 0 < h) (s : State) :
    s.start w h =
      if (2 : Int) ^ s.cfg.lenW - 1 < w * h then s.raiseError s .invalidDimensions
      else if (s.cfg.arrLen : Int) < w * h then s.raiseError s .invalidDimensions
      else s.beginRun (w * h).toNat := by
  rw [State.start, if_neg (by omega), if_neg (by omega)]

theorem State.start_good {w h : Int} {s : State} (hw : 0 < w) (hh : 0 < h) (hfits : w * h ≤ (2 : Int) ^ s.cfg.lenW - 1)
    (hmem : w * h ≤ (s.cfg.arrLen : Int)) : s.start w h = s.beginRun (w * h).toNat := by
  rw [State.start_positive hw hh, if_neg (Int.not_lt.mpr hfits), if_neg (Int.not_lt.mpr hmem)]

/-- Settles O12: the selection, then one equation of START per check. -/
theorem startChecksThenBegins : Obligations.StartChecksThenBegins := by
  rintro s w h hidle rfl rfl
  rw [exec_start_idle hidle]
  refine ⟨fun hrst hcmd => ?_, fun hzero => ?_, fun hw hh hneg => ?_, fun hw hh hlong => ?_,
    fun hw hh hfits hlarge => ?_, fun hw hh hfits hmem => ?_⟩
  · rw [State.select_start hrst hcmd, if_pos hidle]
  · rw [State.start_empty hzero]
    rfl
  · rw [State.start_negative hw hh hneg]
    rfl
  · rw [State.start_positive hw hh, if_pos hlong]
    rfl
  · rw [State.start_positive hw hh, if_neg (Int.not_lt.mpr hfits), if_pos hlarge]
    rfl
  · rw [State.start_good hw hh hfits hmem]
    rfl

/-! A unit's share of a STEP, by the nibbles of the unit, the buffer and the sink's answer. -/

section Emission
variable {s : State} {u : Instr} {a b : Nibble}

theorem State.runUnit_one_empty (henc : encode u = [a]) (hv : s.nibValid = false) :
    s.runUnit u = (s.holdNibble a).advance u.pixels := by
  simp [State.runUnit, henc, State.emitAll, State.emit_empty hv]

theorem State.runUnit_one_accept (henc : encode u = [a]) (hv : s.nibValid = true) (ha : s.sinkAnswer = .accept) :
    s.runUnit u = (s.takeAnswer.appendOut (packByte s.nibHold a)).clearNibble.advance u.pixels := by
  simp [State.runUnit, henc, State.emitAll, State.emit_accept hv ha]

theorem State.runUnit_one_reject (henc : encode u = [a]) (hv : s.nibValid = true) (ha : s.sinkAnswer = .reject) :
    s.runUnit u = s.raiseError s.takeAnswer .outputWriteFailure := by
  simp [State.runUnit, henc, State.emitAll, State.emit_reject hv ha]

theorem State.runUnit_two_empty (henc : encode u = [a, b]) (hv : s.nibValid = false) (ha : s.sinkAnswer = .accept) :
    s.runUnit u = ((s.holdNibble a).takeAnswer.appendOut (packByte a b)).clearNibble.advance u.pixels := by
  have ha' : (s.holdNibble a).sinkAnswer = .accept := ha
  simp [State.runUnit, henc, State.emitAll, State.emit_empty hv, State.emit_accept rfl ha']

theorem State.runUnit_two_pending (henc : encode u = [a, b]) (hv : s.nibValid = true) (ha : s.sinkAnswer = .accept) :
    s.runUnit u = ((s.takeAnswer.appendOut (packByte s.nibHold a)).clearNibble.holdNibble b).advance u.pixels := by
  simp [State.runUnit, henc, State.emitAll, State.emit_accept hv ha, State.emit_empty (State.clearNibble_nibValid _)]

/-- Two nibbles offer a byte whatever the buffer holds, so a sink that rejects ends the STEP. -/
theorem State.runUnit_two_reject (henc : encode u = [a, b]) (ha : s.sinkAnswer = .reject) :
    s.runUnit u = s.raiseError s.takeAnswer .outputWriteFailure := by
  rcases s.runUnit_two henc with ⟨-, hacc, -⟩ | ⟨-, hacc, -⟩ | ⟨-, hrun⟩
  · cases ha.symm.trans hacc
  · cases ha.symm.trans hacc
  · exact hrun

end Emission

/-! The unit forms by themselves: a unit does its share of a STEP where the state selects it (log 7). -/

theorem exec_of_isUnit {u : Instr} (hu : u.isUnit = true) (s : State) : exec u s = s.fireUnit u := by
  cases u with
  | short1 c => rfl
  | short2 c => rfl
  | short3 c => rfl
  | esclit c v => rfl
  | escpow c k => rfl
  | reset => cases hu
  | start => cases hu
  | step => cases hu
  | finalize => cases hu
  | detect => cases hu
  | classify c len => cases hu
  | emitNibble u => cases hu

theorem State.fireUnit_of_selected {s : State} {u : Instr} (h : s.selectedUnit = .ok (some u)) :
    s.fireUnit u = .next (s.runUnit u) := by
  simp only [State.fireUnit, h, if_true]

theorem State.fireUnit_of_other {s : State} {u v : Instr} (h : s.selectedUnit = .ok (some v)) (hne : u ≠ v) :
    s.fireUnit u = .next s := by
  simp only [State.fireUnit, h, if_neg hne.symm]

theorem State.fireUnit_of_none {s : State} (h : s.selectedUnit = .ok none) (u : Instr) : s.fireUnit u = .next s := by
  simp only [State.fireUnit, h]

theorem State.fireUnit_of_fault {s : State} {f : Fault} (h : s.selectedUnit = .error f) (u : Instr) :
    s.fireUnit u = .fault f := by
  simp only [State.fireUnit, h]

theorem exec_step_of_selected {s : State} {u : Instr} (h : s.selectedUnit = .ok (some u)) :
    exec .step s = .next (s.runUnit u) := by
  simp only [exec, execStep, h]

theorem exec_step_of_none {s : State} (h : s.selectedUnit = .ok none) : exec .step s = .next s := by
  simp only [exec, execStep, h]

theorem exec_step_of_fault {s : State} {f : Fault} (h : s.selectedUnit = .error f) : exec .step s = .fault f := by
  simp only [exec, execStep, h]

theorem exec_finalize_of_disabled {s : State} (h : ¬ s.finalizeEnabled) : exec .finalize s = .next s := if_neg h

/-- A selected unit comes from an enabled STEP, DETECT's run and CLASSIFY of it (R103). -/
theorem State.selectedUnit_some {s : State} {u : Instr} (h : s.selectedUnit = .ok (some u)) :
    s.stepEnabled ∧ ∃ r, s.detect = .ok r ∧ u = classify r.colour r.length := by
  by_cases he : s.stepEnabled
  · cases hd : s.detect with
    | error f => simp [State.selectedUnit, if_pos he, hd] at h
    | ok r =>
      rw [State.selectedUnit_of_detect he hd] at h
      exact ⟨he, r, rfl, (Option.some.inj (Except.ok.inj h)).symm⟩
  · rw [State.selectedUnit_of_disabled he] at h
    cases h

theorem State.selectedUnit_encodable {s : State} {u : Instr} (h : s.selectedUnit = .ok (some u)) : u.encodable := by
  obtain ⟨-, r, hd, rfl⟩ := State.selectedUnit_some h
  exact classify_encodable (State.detect_length_pos hd) r.colour

/-- Where the state selects a unit, that unit does its share of a STEP. -/
theorem exec_selected {s : State} {u : Instr} (h : s.selectedUnit = .ok (some u)) : exec u s = .next (s.runUnit u) := by
  rw [exec_of_isUnit (State.selectedUnit_encodable h).1, State.fireUnit_of_selected h]

/-- Settles O30: the state selects another unit, or none. -/
theorem unselectedDoNotFire : Obligations.UnselectedDoNotFire := by
  refine ⟨fun s u r hu he hd hne => ?_, fun s u hu he => ?_, fun s he => ?_, fun s hf => ?_⟩
  · rw [exec_of_isUnit hu, State.fireUnit_of_other (State.selectedUnit_of_detect he hd) hne]
  · rw [exec_of_isUnit hu, State.fireUnit_of_none (State.selectedUnit_of_disabled he)]
  · exact exec_step_of_none (State.selectedUnit_of_disabled he)
  · exact exec_finalize_of_disabled hf

/-- Settles O9: the selection is run, and STEP runs the selected unit. -/
theorem stepRunsTheSelectedOperation : Obligations.StepRunsTheSelectedOperation := by
  refine ⟨fun s t i hsel hexec => ?_, fun s r he hd => ?_, fun s hsel => step_of_wait hsel⟩
  · simp only [step, hsel, hexec, moveOn]
  · have hsel := State.selectedUnit_of_detect he hd
    rw [exec_step_of_selected hsel, exec_selected hsel]

/-! The three short forms and the two escapes, with the whole next state (R141 to R145). -/

/-- What a one-nibble unit answers where it is selected. -/
theorem exec_one_nibble {s : State} {u : Instr} {a : Nibble} (hsel : s.selectedUnit = .ok (some u))
    (henc : encode u = [a]) :
    (s.nibValid = false → exec u s = .next { s with nibValid := true, nibHold := a, sp := s.sp + u.pixels }) ∧
    (s.nibValid = true → s.sinkAnswer = .accept → exec u s =
      .next { s with nibValid := false, nibHold := 0#4, out := s.out ++ [s.nibHold ++ a], sp := s.sp + u.pixels,
                     sink := s.sink.tail, draws := s.draws + 1 }) ∧
    (s.nibValid = true → s.sinkAnswer = .reject → exec u s =
      .next { s with phase := .error, err := .outputWriteFailure, sink := s.sink.tail, draws := s.draws + 1 }) := by
  rw [exec_selected hsel]
  refine ⟨fun hv => ?_, fun hv ha => ?_, fun hv ha => ?_⟩
  · rw [State.runUnit_one_empty henc hv]
    rfl
  · rw [State.runUnit_one_accept henc hv ha, packByte_eq_append]
    rfl
  · rw [State.runUnit_one_reject henc hv ha]
    rfl

/-- What a two-nibble unit answers where it is selected. -/
theorem exec_two_nibbles {s : State} {u : Instr} {a b : Nibble} (hsel : s.selectedUnit = .ok (some u))
    (henc : encode u = [a, b]) :
    (s.nibValid = false → s.sinkAnswer = .accept → exec u s =
      .next { s with nibHold := 0#4, out := s.out ++ [a ++ b], sp := s.sp + u.pixels,
                     sink := s.sink.tail, draws := s.draws + 1 }) ∧
    (s.nibValid = true → s.sinkAnswer = .accept → exec u s =
      .next { s with nibHold := b, out := s.out ++ [s.nibHold ++ a], sp := s.sp + u.pixels,
                     sink := s.sink.tail, draws := s.draws + 1 }) ∧
    (s.sinkAnswer = .reject → exec u s =
      .next { s with phase := .error, err := .outputWriteFailure, sink := s.sink.tail, draws := s.draws + 1 }) := by
  rw [exec_selected hsel]
  refine ⟨fun hv ha => ?_, fun hv ha => ?_, fun ha => ?_⟩
  · rw [State.runUnit_two_empty henc hv ha, packByte_eq_append, hv]
    rfl
  · rw [State.runUnit_two_pending henc hv ha, packByte_eq_append, hv]
    rfl
  · rw [State.runUnit_two_reject henc ha]
    rfl

/-- Settles O27: the detected length selects the unit, and the unit has one nibble. -/
theorem shortUnitsEmitOneNibble : Obligations.ShortUnitsEmitOneNibble := by
  intro s c len n u a he hd hform
  have hsel := State.selectedUnit_of_detect he hd
  rcases hform with ⟨rfl, rfl, rfl, rfl⟩ | ⟨rfl, rfl, rfl, rfl⟩ | ⟨h3, h6, rfl, rfl, rfl⟩
  · exact exec_one_nibble hsel (by rw [← short1Nibble_eq_add]; rfl)
  · exact exec_one_nibble hsel (by rw [← short2Nibble_eq_add]; rfl)
  · rw [classify_of_3_le_of_lt_7 h3 (by omega)] at hsel
    exact exec_one_nibble hsel (by rw [← short3Nibble_eq_add]; rfl)

/-- R145's condition fixes the size class. -/
theorem sizeClass_eq {len k : Nat} (hk : k ≤ 6) (hfit : 16 * 2 ^ k ≤ len) (hnext : k < 6 → len < 16 * 2 ^ (k + 1)) :
    sizeClass len = k := by
  have h16 : 16 ≤ len := le_trans (Nat.le_mul_of_pos_right 16 (Nat.two_pow_pos k)) hfit
  obtain ⟨h6, hclass, -⟩ := sizeClass_spec len h16
  have hle : k ≤ sizeClass len := le_sizeClass h16 hk hfit
  by_contra hne
  have hpow : 2 ^ (k + 1) ≤ 2 ^ sizeClass len := Nat.pow_le_pow_right (by decide) (by omega)
  have hover := hnext (by omega)
  rw [Nat.shiftLeft_eq] at hclass
  omega

theorem classify_eq_escpow {len : Nat} {k : Nibble} (hk : k.toNat ≤ 6) (hfit : 16 * 2 ^ k.toNat ≤ len)
    (hnext : k.toNat < 6 → len < 16 * 2 ^ (k.toNat + 1)) (c : Colour) : classify c len = .escpow c k := by
  have h16 : 16 ≤ len := le_trans (Nat.le_mul_of_pos_right 16 (Nat.two_pow_pos _)) hfit
  rw [classify_of_16_le h16, sizeClass_eq hk hfit hnext, BitVec.ofNat_toNat, BitVec.setWidth_eq]

theorem classify_eq_esclit {v : Nibble} (hv : 7 ≤ v.toNat) (c : Colour) : classify c v.toNat = .esclit c v := by
  rw [classify_of_7_le_of_lt_16 hv v.isLt, BitVec.ofNat_toNat, BitVec.setWidth_eq]

/-- Settles O28: the detected length selects the unit, and the unit has two nibbles. -/
theorem escapeUnitsEmitTwoNibbles : Obligations.EscapeUnitsEmitTwoNibbles := by
  intro s c len n u v he hd hform
  have hsel := State.selectedUnit_of_detect he hd
  rcases hform with ⟨h7, -, rfl, rfl, rfl⟩ | ⟨h6, hfit, hnext, rfl, rfl⟩
  · rw [classify_eq_esclit h7] at hsel
    exact exec_two_nibbles hsel rfl
  · rw [classify_eq_escpow h6 hfit hnext] at hsel
    rw [← escpow_pixels c v]
    exact exec_two_nibbles hsel rfl

/-! SinkWrite and EMIT_NIBBLE by themselves. -/

theorem exec_emitNibble_empty {s : State} (hv : s.nibValid = false) (u : Nibble) :
    exec (.emitNibble u) s = .next (s.holdNibble u) := by
  simp only [exec, execEmitNibble, State.emit_empty hv]

theorem exec_emitNibble_accept {s : State} (hv : s.nibValid = true) (ha : s.sinkAnswer = .accept) (u : Nibble) :
    exec (.emitNibble u) s = .next (s.takeAnswer.appendOut (packByte s.nibHold u)).clearNibble := by
  simp only [exec, execEmitNibble, State.emit_accept hv ha]

theorem exec_emitNibble_reject {s : State} (hv : s.nibValid = true) (ha : s.sinkAnswer = .reject) (u : Nibble) :
    exec (.emitNibble u) s = .next (s.raiseError s.takeAnswer .outputWriteFailure) := by
  simp only [exec, execEmitNibble, State.emit_reject hv ha]

/-- Settles O22: the sink's two answers. -/
theorem sinkWriteAppendsOrNot : Obligations.SinkWriteAppendsOrNot :=
  fun _ b => ⟨fun ha => State.sinkWrite_accept ha b, fun ha => State.sinkWrite_reject ha b⟩

/-- Settles O24: the empty buffer, and the sink's two answers to the byte that a full one completes. -/
theorem emitNibbleHoldsOrCompletes : Obligations.EmitNibbleHoldsOrCompletes := by
  intro s u
  refine ⟨fun hv => exec_emitNibble_empty hv u, fun hv ha => ?_, fun hv ha => exec_emitNibble_reject hv ha u⟩
  rw [exec_emitNibble_accept hv ha, packByte_eq_append]
  rfl

/-- A one-nibble unit is its EMIT_NIBBLE and the advance, or the EMIT_NIBBLE alone where that fails. -/
theorem State.runUnit_one_eq_emitNibble {s : State} {u : Instr} {a : Nibble} (hphase : s.phase ≠ .error)
    (henc : encode u = [a]) : ∃ m, exec (.emitNibble a) s = .next m ∧
      (m.phase ≠ .error → s.runUnit u = { m with sp := s.sp + u.pixels }) ∧ (m.phase = .error → s.runUnit u = m) := by
  rcases s.runUnit_one henc with ⟨hv, hrun⟩ | ⟨hv, ha, hrun⟩ | ⟨hv, ha, hrun⟩ <;> rw [hrun]
  · exact ⟨_, exec_emitNibble_empty hv a, fun _ => rfl, fun h => absurd h hphase⟩
  · exact ⟨_, exec_emitNibble_accept hv ha a, fun _ => rfl, fun h => absurd h hphase⟩
  · exact ⟨_, exec_emitNibble_reject hv ha a, fun h => absurd rfl h, fun _ => rfl⟩

/-- A two-nibble unit is its two EMIT_NIBBLEs and the advance; where one fails, the state before the first with the error. -/
theorem State.runUnit_two_eq_emitNibble {s : State} {u : Instr} {a b : Nibble} (hphase : s.phase ≠ .error)
    (henc : encode u = [a, b]) : ∃ m, exec (.emitNibble a) s = .next m ∧ (m.phase = .error → s.runUnit u = m) ∧
      (m.phase ≠ .error → ∃ m', exec (.emitNibble b) m = .next m' ∧
        (m'.phase ≠ .error → s.runUnit u = { m' with sp := s.sp + u.pixels }) ∧
        (m'.phase = .error → s.runUnit u =
          { s with phase := .error, err := .outputWriteFailure, sink := m'.sink, draws := m'.draws })) := by
  obtain hv | hv := (Bool.eq_false_or_eq_true s.nibValid).symm
  · refine ⟨_, exec_emitNibble_empty hv a, fun h => absurd h hphase, fun _ => ?_⟩
    cases ha : s.sinkAnswer with
    | accept =>
      have ha' : (s.holdNibble a).sinkAnswer = .accept := ha
      rw [State.runUnit_two_empty henc hv ha]
      exact ⟨_, exec_emitNibble_accept rfl ha' b, fun _ => rfl, fun h => absurd h hphase⟩
    | reject =>
      have ha' : (s.holdNibble a).sinkAnswer = .reject := ha
      rw [State.runUnit_two_reject henc ha]
      exact ⟨_, exec_emitNibble_reject rfl ha' b, fun h => absurd rfl h, fun _ => rfl⟩
  · cases ha : s.sinkAnswer with
    | accept =>
      rw [State.runUnit_two_pending henc hv ha]
      exact ⟨_, exec_emitNibble_accept hv ha a, fun h => absurd h hphase,
        fun _ => ⟨_, exec_emitNibble_empty rfl b, fun _ => rfl, fun h => absurd h hphase⟩⟩
    | reject =>
      rw [State.runUnit_two_reject henc ha]
      exact ⟨_, exec_emitNibble_reject hv ha a, fun _ => rfl, fun h => absurd rfl h⟩

/-- Settles O29: DETECT and CLASSIFY answer in a sound state, and the unit's nibbles are one or two EMIT_NIBBLEs. -/
theorem stepIsItsSubOperations : Obligations.StepIsItsSubOperations := by
  intro s h he
  obtain ⟨r, hd⟩ := h.exists_detect he
  have hlen := State.detect_length_pos hd
  have hsel := State.selectedUnit_of_detect he hd
  have hphase : s.phase ≠ .error := by simp [he.1]
  obtain ⟨hu, hw⟩ := classify_encodable hlen r.colour
  refine ⟨r, classify r.colour r.length, _, exec_detect_of_run he.2 hd, exec_classify_of_pos hlen r.colour s,
    exec_step_of_selected hsel, exec_selected hsel, ?_⟩
  rcases encode_shape _ hu hw with ⟨a, henc, -⟩ | ⟨a, b, henc, -, -⟩
  · obtain ⟨m, hm, hok, herr⟩ := State.runUnit_one_eq_emitNibble hphase henc
    exact .inl ⟨a, m, henc, hm, hok, herr⟩
  · obtain ⟨m, hm, herr, hok⟩ := State.runUnit_two_eq_emitNibble hphase henc
    exact .inr ⟨a, b, m, henc, hm, herr, hok⟩

end Sys2Proof.Machine

/-!
PROOFS. Whole runs (40_control.md R104, R107; 70_reset_and_hazards.md R234): with a sink that accepts, a sound run reaches
DONE; whatever the sink answers, the run agrees with the accepted one up to the first rejected byte.
-/
namespace Sys2Proof.Machine

/-! Runs of several steps. -/

theorem run_succ_next {s t : State} {k : Nat} (h : Sys2Proof.core.run (k + 1) s = .next t) :
    ∃ m, step s = .next m ∧ Sys2Proof.core.run k m = .next t := by
  cases hstep : step s with
  | next m => exact ⟨m, rfl, (run_succ hstep k).symm.trans h⟩
  | fault f =>
    have hcore : Sys2Proof.core.step s = .fault f := hstep
    simp [Host.Core.run, hcore] at h
  | refused r =>
    have hcore : Sys2Proof.core.step s = .refused r := hstep
    simp [Host.Core.run, hcore] at h

/-- What every step keeps holds after a run. -/
theorem run_keeps {P : State → Prop} (hstep : ∀ s t, P s → step s = .next t → P t) {k : Nat} {s t : State} (hs : P s)
    (hrun : Sys2Proof.core.run k s = .next t) : P t := by
  induction k generalizing s with
  | zero => exact Host.Outcome.next.inj hrun ▸ hs
  | succ k ih =>
    obtain ⟨m, hm, hrest⟩ := run_succ_next hrun
    exact ih (hstep s m hs hm) hrest

theorem State.StreamInv.run {s t : State} {k : Nat} (h : s.StreamInv) (hinv : s.Inv)
    (hrun : Sys2Proof.core.run k s = .next t) : t.StreamInv :=
  (run_keeps (P := fun s => s.Inv ∧ s.StreamInv)
    (fun s t h hst => ⟨stepKeepsInvariant s t h.1 hst, stepKeepsStreamInvariant s t h.1 h.2 hst⟩) ⟨hinv, h⟩ hrun).2

theorem run_pix {s t : State} {k : Nat} (hrun : Sys2Proof.core.run k s = .next t) : t.pix = s.pix :=
  run_keeps (P := fun m => m.pix = s.pix) (fun m t hm hst => (launchIsConstant m t hst).1.trans hm) rfl hrun

theorem State.advanceHost_of_quiet {s : State} (hq : s.quiet) : s.advanceHost = s := by
  rw [State.advanceHost, hq, List.tail_nil, ← hq]

/-- Outside RUNNING a quiet host leaves the block as it is, however long it waits (R100 item 6). -/
theorem run_of_waiting {s : State} (hq : s.quiet) (hphase : s.phase ≠ .running) (k : Nat) :
    Sys2Proof.core.run k s = .next s := by
  have hstep := step_of_waiting (State.quietNow_of_quiet hq) hphase
  rw [State.advanceHost_of_quiet hq] at hstep
  induction k with
  | zero => rfl
  | succ k ih => rw [run_succ hstep, ih]

/-! The coming answers of the sink. -/

/-- The state with other coming sink answers. -/
def State.withSink (l : List SinkAnswer) (s : State) : State := { s with sink := l }

theorem State.SinkAccepts.sinkAnswer {s : State} {n : Nat} (h : s.SinkAccepts (n + 1)) : s.sinkAnswer = .accept := by
  have h0 := h 0 (Nat.succ_pos n)
  rw [State.sinkAnswer, List.headD_eq_head?_getD, List.head?_eq_getElem?, h0]
  rfl

/-- A step takes at most one answer, so one promised answer less is left. -/
theorem State.SinkAccepts.after {s t : State} {n m : Nat} (h : s.SinkAccepts n)
    (hsink : t.sink = s.sink ∨ t.sink = s.sink.tail) (hlt : m < n) : t.SinkAccepts m := by
  intro k hk
  rcases hsink with heq | heq <;> rw [heq]
  · exact h k (by omega)
  · rw [List.getElem?_tail]
    exact h (k + 1) (by omega)

theorem State.sinkAccepts_replicate (s : State) (n : Nat) :
    (s.withSink (List.replicate n .accept)).SinkAccepts n :=
  fun _ hk => List.getElem?_replicate_of_lt hk

/-! A run that the sink accepts (R104). -/

/-- One step of a sound RUNNING state with a quiet host and a sink that accepts: the run goes on, nearer to its end, or is
done; OUT grows. -/
theorem State.Inv.step_accepted {s : State} (h : s.Inv) (hrun : s.phase = .running) (hq : s.quiet)
    (ha : s.sinkAnswer = .accept) :
    ∃ t, step s = .next t ∧ t.quiet ∧ t.dlen = s.dlen ∧ s.out <+: t.out ∧ (t.sink = s.sink ∨ t.sink = s.sink.tail) ∧
      (t.phase = .done ∨ (t.phase = .running ∧ s.sp < t.sp ∧ t.sp ≤ t.dlen)) := by
  have hquiet := State.quietNow_of_quiet hq
  obtain ⟨t, hstep⟩ := h.exists_step_quietNow hquiet
  obtain ⟨hdlen, hadvance, -⟩ := scanPositionAdvances s t h hrun hquiet.1 hstep
  have htq : t.quiet := (launchIsConstant s t hstep).2.2.2.trans (congrArg List.tail hq)
  obtain ⟨m, hm, rfl⟩ := exists_transition_of_step hstep
  refine ⟨_, hstep, htq, hdlen, ?_⟩
  cases hm with
  | reset hrst => exact absurd (hquiet.1.symm.trans hrst) Bool.false_ne_true
  | begin _ hidle _ _ _ _ => cases hidle.symm.trans hrun
  | badLaunch _ hidle _ _ _ => cases hidle.symm.trans hrun
  | reject _ _ hrej => cases ha.symm.trans hrej
  | wait _ hnostep hnofin => exact ((h.stepEnabled_or_finalizeEnabled hrun).elim hnostep hnofin).elim
  | emit _ _ _ he =>
    have hphase : m.phase = .running := he.phase.trans hrun
    obtain ⟨hlt, -, hle⟩ := hadvance hphase
    exact ⟨he.offer.out_prefix, he.offer.sink_cases, .inr ⟨hphase, hlt, hle⟩⟩
  | finish _ _ hf => exact ⟨hf.offer.out_prefix, hf.offer.sink_cases, .inl hf.phase⟩

/-- R104: every accepted step scans a pixel, and one more finishes the run. -/
theorem State.Inv.run_reaches_done {n : Nat} {s : State} (h : s.Inv) (hrun : s.phase = .running) (hq : s.quiet)
    (ha : s.SinkAccepts (s.dlen - s.sp + 1)) (hn : s.dlen - s.sp < n) :
    ∃ u, Sys2Proof.core.run n s = .next u ∧ u.phase = .done ∧ u.dlen = s.dlen ∧ s.out <+: u.out := by
  induction n generalizing s with
  | zero => exact absurd hn (Nat.not_lt_zero _)
  | succ n ih =>
    obtain ⟨t, hstep, htq, hdlen, hout, hsink, hnext⟩ := h.step_accepted hrun hq ha.sinkAnswer
    rw [run_succ hstep]
    rcases hnext with hdone | ⟨htrun, hlt, hle⟩
    · exact ⟨t, run_of_waiting htq (by simp [hdone]) n, hdone, hdlen, hout⟩
    · obtain ⟨u, hu, hphase, hudlen, huout⟩ := ih (stepKeepsInvariant s t h hstep) htrun htq
        (ha.after hsink (by omega)) (by omega)
      exact ⟨u, hu, hphase, hudlen.trans hdlen, hout.trans huout⟩

/-- Settles O38: the run reaches DONE, where the stream's invariant says what OUT decodes to. -/
theorem runReachesDoneAndDecodes : Obligations.RunReachesDoneAndDecodes := by
  intro s h hstream hrun hq ha
  obtain ⟨u, hu, hdone, hdlen, -⟩ := h.run_reaches_done hrun hq ha (Nat.lt_succ_self _)
  refine ⟨u, hu, hdone, ?_⟩
  rw [(hstream.run h hu).complete hdone, State.colours_congr (run_pix hu), hdlen]

/-- In a sound IDLE state nothing is emitted and nothing scanned. -/
theorem State.Inv.streamInv_of_idle {s : State} (h : s.Inv) (hidle : s.phase = .idle) : s.StreamInv := by
  obtain ⟨hsp, -, hv, hout, -⟩ := h.idle_is_reset hidle
  exact .of_empty (by rw [State.nibbles_empty hv, hout]; rfl) hsp (by simp [hidle])

/-- Settles O39: START begins a sound run of `w * h` pixels, which reaches DONE. -/
theorem launchEncodesItsPixels : Obligations.LaunchEncodesItsPixels := by
  rintro s d w h hinv hidle hhost hrst hcmd hw hh hwpos hhpos hfits hmem ha
  have hports : s.ports = d := by rw [State.ports, hhost]; rfl
  have hstep := step_of_start (s := s) (hports ▸ hrst) (hports ▸ hcmd) hidle
  rw [hports, ← hw, ← hh, State.start_good hwpos hhpos hfits hmem] at hstep
  obtain ⟨u, hu, hdone, hdec⟩ := runReachesDoneAndDecodes _ (stepKeepsInvariant s _ hinv hstep)
    (stepKeepsStreamInvariant s _ hinv (hinv.streamInv_of_idle hidle) hstep) rfl (by simp [State.quiet, hhost]) ha
  exact ⟨u, (run_succ hstep _).trans hu, hdone, hdec⟩

/-! The same run under two sinks (R234). Nothing but a rejected byte tells them apart. -/

theorem State.Inv.withSink {s : State} (h : s.Inv) (l : List SinkAnswer) : (s.withSink l).Inv :=
  ⟨h.sp_le_dlen, h.empty_holds_0, h.idle_is_reset, h.run_has_pixels, h.done_is_flushed, h.error_iff, h.dlen_in_memory,
    h.dlen_fits, h.pix_canonical⟩

/-- The second state is the first but for the sink's coming answers. -/
def State.AgreesButSink (t t' : State) : Prop := ∃ l, t' = t.withSink l

theorem State.AgreesButSink.advanceHost {t t' : State} : t.AgreesButSink t' → t.advanceHost.AgreesButSink t'.advanceHost
  | ⟨l, h⟩ => ⟨l, congrArg State.advanceHost h⟩

section TwoSinks
variable {s : State} {l : List SinkAnswer} (hl : (s.withSink l).sinkAnswer = .accept)

include hl

/-- Under a sink that accepts, a unit does the same, unless its byte is rejected (R103). -/
theorem State.runUnit_withSink {u : Instr} (hu : u.encodable) :
    (s.runUnit u).AgreesButSink ((s.withSink l).runUnit u) ∨
      s.runUnit u = s.raiseError s.takeAnswer .outputWriteFailure := by
  rcases encode_shape u hu.1 hu.2 with ⟨a, henc, -⟩ | ⟨a, b, henc, -, -⟩
  · rcases s.runUnit_one henc with ⟨hv, hrun⟩ | ⟨hv, -, hrun⟩ | ⟨-, -, hrun⟩
    · exact .inl ⟨l, hrun ▸ State.runUnit_one_empty (s := s.withSink l) henc hv⟩
    · exact .inl ⟨l.tail, hrun ▸ State.runUnit_one_accept (s := s.withSink l) henc hv hl⟩
    · exact .inr hrun
  · rcases s.runUnit_two henc with ⟨hv, -, hrun⟩ | ⟨hv, -, hrun⟩ | ⟨-, hrun⟩
    · exact .inl ⟨l.tail, hrun ▸ State.runUnit_two_empty (s := s.withSink l) henc hv hl⟩
    · exact .inl ⟨l.tail, hrun ▸ State.runUnit_two_pending (s := s.withSink l) henc hv hl⟩
    · exact .inr hrun

theorem State.finalize_withSink :
    s.finalize.AgreesButSink (s.withSink l).finalize ∨
      s.finalize = s.raiseError s.takeAnswer .outputWriteFailure := by
  rcases s.finalize_cases with ⟨hv, hfin⟩ | ⟨hv, -, hfin⟩ | ⟨-, -, hfin⟩
  · exact .inl ⟨l, hfin ▸ State.finalize_empty (s := s.withSink l) hv⟩
  · exact .inl ⟨l.tail, hfin ▸ State.finalize_accept (s := s.withSink l) hv hl⟩
  · exact .inr hfin

/-- Under a sink that accepts, a sound RUNNING state does the same step, unless its byte is rejected. -/
theorem State.Inv.step_withSink {t t' : State} (h : s.Inv) (hrun : s.phase = .running) (hq : s.quiet)
    (hstep : step s = .next t) (hstep' : step (s.withSink l) = .next t') :
    t.AgreesButSink t' ∨ (t.phase = .error ∧ t.out = s.out ∧ t.quiet) := by
  have hquiet := State.quietNow_of_quiet hq
  have htail : s.host.tail = [] := congrArg List.tail hq
  rcases h.stepEnabled_or_finalizeEnabled hrun with he | hf
  · obtain ⟨r, hd⟩ := h.exists_detect he
    have hd' : (s.withSink l).detect = .ok r := (State.detect_congr (t := s.withSink l) he.2 h.dlen_in_memory
      h.dlen_in_memory rfl rfl rfl fun _ _ => Iff.rfl).trans hd
    obtain rfl := Host.Outcome.next.inj (hstep.symm.trans (step_of_stepEnabled hquiet he hd))
    obtain rfl := Host.Outcome.next.inj (hstep'.symm.trans (step_of_stepEnabled (s := s.withSink l) hquiet he hd'))
    rcases State.runUnit_withSink hl (classify_encodable (State.detect_length_pos hd) r.colour) with hsame | hrej
    · exact .inl hsame.advanceHost
    · exact .inr (hrej ▸ ⟨rfl, rfl, htail⟩)
  · obtain rfl := Host.Outcome.next.inj (hstep.symm.trans (step_of_finalizeEnabled hquiet hf))
    obtain rfl := Host.Outcome.next.inj (hstep'.symm.trans (step_of_finalizeEnabled (s := s.withSink l) hquiet hf))
    rcases State.finalize_withSink hl with hsame | hrej
    · exact .inl hsame.advanceHost
    · exact .inr (hrej ▸ ⟨rfl, rfl, htail⟩)

end TwoSinks

/-- R234 by induction on the steps: up to the first rejected byte the accepted run keeps pace, and after it OUT stays. -/
theorem State.Inv.out_prefix_of_accepted {k n : Nat} {s t : State} {l : List SinkAnswer} (h : s.Inv)
    (hrun : s.phase = .running) (hq : s.quiet) (hl : (s.withSink l).SinkAccepts (s.dlen - s.sp + 1))
    (hn : s.dlen - s.sp < n) (hk : Sys2Proof.core.run k s = .next t) :
    ∃ u, Sys2Proof.core.run n (s.withSink l) = .next u ∧ u.phase = .done ∧ t.out <+: u.out := by
  induction k generalizing n s l with
  | zero =>
    obtain ⟨u, hu, hdone, -, hout⟩ := (h.withSink l).run_reaches_done hrun hq hl hn
    exact ⟨u, hu, hdone, Host.Outcome.next.inj hk ▸ hout⟩
  | succ k ih =>
    obtain ⟨m, hm, hrest⟩ := run_succ_next hk
    obtain ⟨m', hm', hmq, hdlen, -, hsink, hnext⟩ := (h.withSink l).step_accepted hrun hq hl.sinkAnswer
    rcases h.step_withSink hl.sinkAnswer hrun hq hm hm' with ⟨l', rfl⟩ | ⟨herror, hout, hmq'⟩
    case inl =>
      obtain ⟨n, rfl⟩ := Nat.exists_eq_add_one_of_ne_zero (Nat.ne_zero_of_lt hn)
      rw [run_succ hm']
      have hmquiet : m.quiet := hmq
      have hmdlen : m.dlen = s.dlen := hdlen
      rcases hnext with (hdone : m.phase = .done) | ⟨hmrun, (hlt : s.sp < m.sp), (hle : m.sp ≤ m.dlen)⟩
      · have hwaits : m.phase ≠ .running := by simp [hdone]
        obtain rfl : m = t := Host.Outcome.next.inj ((run_of_waiting hmquiet hwaits k).symm.trans hrest)
        exact ⟨m.withSink l', run_of_waiting hmq hwaits n, hdone, List.prefix_rfl⟩
      · exact ih (stepKeepsInvariant s m h hm) hmrun hmq (hl.after hsink (by omega)) (by omega) hrest
    case inr =>
      obtain ⟨u, hu, hdone, -, huout⟩ := (h.withSink l).run_reaches_done hrun hq hl hn
      obtain rfl : m = t := Host.Outcome.next.inj ((run_of_waiting hmq' (by simp [herror]) k).symm.trans hrest)
      exact ⟨u, hu, hdone, hout ▸ huout⟩

/-- Settles O40: the accepted run has an Accept for each byte it can offer. -/
theorem outputIsAPrefixOfTheStream : Obligations.OutputIsAPrefixOfTheStream :=
  fun s _ _ h hrun hq hk => h.out_prefix_of_accepted hrun hq (s.sinkAccepts_replicate _) (Nat.lt_succ_self _) hk

end Sys2Proof.Machine

/-!
PROOFS. The frames of the operations, the bytes they offer and the nibbles they add (43_nibble_packing.md R174 to R176), read
off what a unit's share of a STEP and FINALIZE answer.
-/
namespace Sys2Proof.Machine

/-! FINALIZE's bytes (R172, R176). -/

theorem length_flatMap_byteNibbles (bs : List Byte) : (bs.flatMap byteNibbles).length = 2 * bs.length := by
  simp [List.length_flatMap, Nat.mul_comm]

theorem State.nibbles_length (s : State) :
    s.nibbles.length = 2 * s.out.length + (if s.nibValid then 1 else 0) := by
  rw [State.nibbles, List.length_append, length_flatMap_byteNibbles]
  cases s.nibValid <;> rfl

/-- Settles O26: the padding makes the count of nibbles even, and each byte holds two. -/
theorem finalizePadsAnOddNibble : Obligations.FinalizePadsAnOddNibble := by
  intro s t hrun hend hexec hdone
  rw [exec_finalize_of_enabled ⟨hrun, hend⟩] at hexec
  cases hexec
  rcases s.finalize_finishes_or_rejected with hf | ⟨-, -, hrej⟩
  · refine ⟨hf.bytes, ?_⟩
    have hlen := congrArg List.length hf.bytes
    rw [length_flatMap_byteNibbles, List.length_append, State.nibbles_length] at hlen
    rw [State.nibbles_length]
    cases hv : s.nibValid <;> simp [hv] at hlen ⊢ <;> omega
  · simp [hrej] at hdone

/-! The frames. -/

/-- The frame of an emission (R23, R27, R28): OUT grows by at most one byte, PHASE and ERR change to
OUTPUT_WRITE_FAILURE alone. -/
structure State.EmissionFrame (s t : State) : Prop where
  launch : s.SameLaunch t
  dlen   : t.dlen = s.dlen
  out    : t.out = s.out ∨ ∃ b, t.out = s.out ++ [b]
  status : (t.phase = s.phase ∧ t.err = s.err) ∨ (t.phase = .error ∧ t.err = .outputWriteFailure)

theorem State.EmissionFrame.refl (s : State) : s.EmissionFrame s :=
  ⟨⟨rfl, rfl, rfl, rfl, rfl⟩, rfl, .inl rfl, .inl ⟨rfl, rfl⟩⟩

theorem State.EmissionFrame.rejected (s : State) :
    s.EmissionFrame (s.raiseError s.takeAnswer .outputWriteFailure) :=
  ⟨⟨rfl, rfl, rfl, rfl, rfl⟩, rfl, .inl rfl, .inr ⟨rfl, rfl⟩⟩

theorem State.emissionFrame_runUnit (s : State) {u : Instr} (hu : u.encodable) : s.EmissionFrame (s.runUnit u) := by
  rcases s.runUnit_emits_or_rejected hu with he | ⟨-, hrej⟩
  · exact ⟨he.launch, he.dlen, he.offer.out_cases, .inl ⟨he.phase, he.err⟩⟩
  · exact hrej ▸ .rejected s

theorem State.emissionFrame_step {s t : State} (h : exec .step s = .next t) : s.EmissionFrame t := by
  cases hsel : s.selectedUnit with
  | error f => cases (exec_step_of_fault hsel).symm.trans h
  | ok o =>
    cases o with
    | none =>
      cases (exec_step_of_none hsel).symm.trans h
      exact .refl s
    | some u =>
      cases (exec_step_of_selected hsel).symm.trans h
      exact s.emissionFrame_runUnit (State.selectedUnit_encodable hsel)

theorem State.emissionFrame_fireUnit {s t : State} {u : Instr} (h : s.fireUnit u = .next t) : s.EmissionFrame t := by
  cases hsel : s.selectedUnit with
  | error f => cases (State.fireUnit_of_fault hsel u).symm.trans h
  | ok o =>
    cases o with
    | none =>
      cases (State.fireUnit_of_none hsel u).symm.trans h
      exact .refl s
    | some v =>
      by_cases hv : u = v
      · subst hv
        cases (State.fireUnit_of_selected hsel).symm.trans h
        exact s.emissionFrame_runUnit (State.selectedUnit_encodable hsel)
      · cases (State.fireUnit_of_other hsel hv).symm.trans h
        exact .refl s

theorem State.emissionFrame_emitNibble {s t : State} {u : Nibble} (h : exec (.emitNibble u) s = .next t) :
    s.EmissionFrame t ∧ t.sp = s.sp := by
  cases hv : s.nibValid with
  | false =>
    cases (exec_emitNibble_empty hv u).symm.trans h
    exact ⟨⟨⟨rfl, rfl, rfl, rfl, rfl⟩, rfl, .inl rfl, .inl ⟨rfl, rfl⟩⟩, rfl⟩
  | true =>
    cases ha : s.sinkAnswer with
    | accept =>
      cases (exec_emitNibble_accept hv ha u).symm.trans h
      exact ⟨⟨⟨rfl, rfl, rfl, rfl, rfl⟩, rfl, .inr ⟨_, rfl⟩, .inl ⟨rfl, rfl⟩⟩, rfl⟩
    | reject =>
      cases (exec_emitNibble_reject hv ha u).symm.trans h
      exact ⟨.rejected s, rfl⟩

/-- Settles O31: the three kinds of emission have the one frame. -/
theorem frameOfEmission : Obligations.FrameOfEmission := by
  intro i s t hi hexec
  have hframe : s.EmissionFrame t ∧ ((∃ u, i = .emitNibble u) → t.sp = s.sp) := by
    rcases hi with hu | rfl | ⟨u, rfl⟩
    · refine ⟨State.emissionFrame_fireUnit ((exec_of_isUnit hu s).symm.trans hexec), ?_⟩
      rintro ⟨u, rfl⟩
      cases hu
    · exact ⟨State.emissionFrame_step hexec, nofun⟩
    · obtain ⟨hf, hsp⟩ := State.emissionFrame_emitNibble hexec
      exact ⟨hf, fun _ => hsp⟩
  obtain ⟨⟨⟨hcfg, hpix, hhost, hdet, hcls⟩, hdlen, hout, hstatus⟩, hsp⟩ := hframe
  exact ⟨hdlen, fun a => congrArg (Memory.read · a) hpix, hcfg, hhost, hdet, hcls, hout, hstatus, hsp⟩

theorem State.sameLaunch_start (s : State) (w h : Int) :
    s.SameLaunch (s.start w h) ∧ (s.start w h).sink = s.sink ∧ (s.start w h).draws = s.draws := by
  rcases s.start_cases w h with ⟨-, hs⟩ | ⟨-, -, hs⟩ | ⟨-, -, -, -, hs⟩ <;> rw [hs] <;>
    exact ⟨⟨rfl, rfl, rfl, rfl, rfl⟩, rfl, rfl⟩

theorem State.sameLaunch_finalize (s : State) :
    s.SameLaunch s.finalize ∧ s.finalize.dlen = s.dlen ∧ s.finalize.sp = s.sp := by
  rcases s.finalize_finishes_or_rejected with hf | ⟨-, -, hrej⟩
  · exact ⟨hf.launch, hf.dlen, hf.sp⟩
  · exact hrej ▸ ⟨⟨rfl, rfl, rfl, rfl, rfl⟩, rfl, rfl⟩

theorem exec_start_next {s t : State} (h : exec .start s = .next t) :
    s.phase = .idle ∧ t = s.start (dimension s.cfg s.ports.cfgWidth) (dimension s.cfg s.ports.cfgHeight) := by
  by_cases hidle : s.phase = .idle
  · rw [exec_start_idle hidle] at h
    exact ⟨hidle, (Host.Outcome.next.inj h).symm⟩
  · simp [exec, execStart, hidle] at h

theorem exec_finalize_next {s t : State} (h : exec .finalize s = .next t) :
    (s.finalizeEnabled ∧ t = s.finalize) ∨ (¬ s.finalizeEnabled ∧ t = s) := by
  by_cases hf : s.finalizeEnabled
  · rw [exec_finalize_of_enabled hf] at h
    exact .inl ⟨hf, (Host.Outcome.next.inj h).symm⟩
  · rw [exec_finalize_of_disabled hf] at h
    exact .inr ⟨hf, (Host.Outcome.next.inj h).symm⟩

/-- Settles O33: RESET and START write registers only; FINALIZE writes PHASE, ERR, the buffer and OUT. -/
theorem frameOfControl : Obligations.FrameOfControl := by
  intro i s t hi hexec
  have hframe : s.SameLaunch t ∧ (i ≠ .finalize → t.sink = s.sink ∧ t.draws = s.draws) ∧
      (i = .finalize → t.dlen = s.dlen ∧ t.sp = s.sp) := by
    rcases hi with rfl | rfl | rfl
    · cases hexec
      exact ⟨⟨rfl, rfl, rfl, rfl, rfl⟩, fun _ => ⟨rfl, rfl⟩, nofun⟩
    · obtain ⟨-, rfl⟩ := exec_start_next hexec
      obtain ⟨hlaunch, hsink⟩ := s.sameLaunch_start _ _
      exact ⟨hlaunch, fun _ => hsink, nofun⟩
    · rcases exec_finalize_next hexec with ⟨-, rfl⟩ | ⟨-, rfl⟩
      · obtain ⟨hlaunch, hregs⟩ := s.sameLaunch_finalize
        exact ⟨hlaunch, fun h => absurd rfl h, fun _ => hregs⟩
      · exact ⟨⟨rfl, rfl, rfl, rfl, rfl⟩, fun h => absurd rfl h, fun _ => ⟨rfl, rfl⟩⟩
  obtain ⟨⟨hcfg, hpix, hhost, hdet, hcls⟩, hsink, hregs⟩ := hframe
  exact ⟨fun a => congrArg (Memory.read · a) hpix, hcfg, hhost, hdet, hcls, hsink, hregs⟩

/-! The bytes offered (R175). -/

theorem State.runUnit_draws_one (s : State) {u : Instr} {a : Nibble} (henc : encode u = [a]) :
    (s.runUnit u).draws = s.draws + (if s.nibValid then 1 else 0) := by
  rcases s.runUnit_one henc with ⟨hv, hrun⟩ | ⟨hv, -, hrun⟩ | ⟨hv, -, hrun⟩ <;> rw [hrun, hv] <;> rfl

theorem State.runUnit_draws_two (s : State) {u : Instr} {a b : Nibble} (henc : encode u = [a, b]) :
    (s.runUnit u).draws = s.draws + 1 := by
  rcases s.runUnit_two henc with ⟨-, -, hrun⟩ | ⟨-, -, hrun⟩ | ⟨-, hrun⟩ <;> rw [hrun] <;> rfl

theorem State.finalize_draws (s : State) : s.finalize.draws = s.draws + (if s.nibValid then 1 else 0) := by
  rcases s.finalize_cases with ⟨hv, hf⟩ | ⟨hv, -, hf⟩ | ⟨hv, -, hf⟩ <;> rw [hf, hv] <;> rfl

/-- Settles O48: the two widths of a unit, and FINALIZE. -/
theorem atMostOneWriteEach : Obligations.AtMostOneWriteEach := by
  refine ⟨fun s t u hsel hexec => ?_, fun s t hf hexec => ?_⟩
  · cases (exec_step_of_selected hsel).symm.trans hexec
    obtain ⟨hu, hw⟩ := State.selectedUnit_encodable hsel
    rcases encode_shape u hu hw with ⟨a, henc, -⟩ | ⟨a, b, henc, -, -⟩
    · exact ⟨fun _ => s.runUnit_draws_one henc, by simp [henc], .inl (by simp [henc])⟩
    · exact ⟨by simp [henc], fun _ => s.runUnit_draws_two henc, .inr (by simp [henc])⟩
  · cases (exec_finalize_of_enabled hf).symm.trans hexec
    exact s.finalize_draws

/-- Settles O49: the length of the stream, START's empty stream, and the nibbles a completed STEP adds. -/
theorem nibblesAreCounted : Obligations.NibblesAreCounted := by
  refine ⟨State.nibbles_length, fun s t hexec hrun => ?_, fun s t u hsel hexec hne => ?_⟩
  · obtain ⟨-, rfl⟩ := exec_start_next hexec
    rcases s.start_cases _ _ with ⟨-, hs⟩ | ⟨-, -, hs⟩ | ⟨-, -, -, -, hs⟩ <;> rw [hs] at hrun ⊢
    · cases hrun
    · cases hrun
    · rfl
  · cases (exec_step_of_selected hsel).symm.trans hexec
    rcases s.runUnit_emits_or_rejected (State.selectedUnit_encodable hsel) with he | ⟨-, hrej⟩
    · exact he.nibbles
    · simp [hrej] at hne

end Sys2Proof.Machine

/-!
PROOFS. Reset, the selector and the command and dimension ports (40_control.md R100, R105; 70_reset_and_hazards.md R230).
-/
namespace Sys2Proof.Machine

/-- Settles O6: RESET writes every register's reset value. -/
theorem resetValues : Obligations.ResetValues := ⟨fun _ => rfl, rfl, fun s => ⟨s.resetRegs, rfl, rfl⟩⟩

theorem State.Inv.resetRegs_of_idle {s : State} (h : s.Inv) (hidle : s.phase = .idle) : s.resetRegs = s := by
  obtain ⟨hsp, hdlen, hv, hout, herr⟩ := h.idle_is_reset hidle
  have hhold := h.empty_holds_0 hv
  cases s
  simp_all [State.resetRegs]

/-- Settles O7: RESET's one effect; in a sound IDLE state the registers have their reset values already. -/
theorem resetFromAnyPhase : Obligations.ResetFromAnyPhase := by
  refine ⟨fun _ => rfl, fun s hrst => ⟨s.resetRegs, rfl, step_of_reset hrst⟩, fun s t hexec => ?_, fun s h hidle => ?_⟩
  · cases hexec
    rfl
  · exact congrArg Host.Outcome.next (h.resetRegs_of_idle hidle)

/-- Settles O8: one equation of the selector per clause. -/
theorem selectorOrder : Obligations.SelectorOrder := by
  intro s
  refine ⟨fun hrst => if_pos hrst, fun hrst hcmd hidle => ?_, fun hrst hcmd hphase => ?_, State.select_reserved,
    fun hq hrun hlt => State.select_step hq ⟨hrun, hlt⟩, fun hq hrun hend => State.select_finalize hq ⟨hrun, hend⟩,
    fun hq hphase => State.select_wait hq (fun he => hphase he.1) fun hf => hphase hf.1⟩
  · rw [State.select_start hrst hcmd, if_pos hidle]
  · rw [State.select_start hrst hcmd, if_neg hphase]

/-- Settles O11: the selector's two refusals, and START's own. -/
theorem commandsRefused : Obligations.CommandsRefused := by
  refine ⟨fun s hrst hcmd => step_of_refuse (State.select_reserved hrst hcmd), fun s hrst hcmd hphase => ?_,
    fun s hphase => if_neg hphase⟩
  exact step_of_refuse (by rw [State.select_start hrst hcmd, if_neg hphase])

/-- Settles O13: a number below half the port's range is positive, any other is that range less. -/
theorem dimensionIsTwosComplement : Obligations.DimensionIsTwosComplement := by
  intro p raw hraw
  have hhalf : 2 ^ p.dimW = 2 * 2 ^ (p.dimW - 1) := (mul_pow_sub_one (by simp [Params.dimW]) 2).symm
  rw [dimension, BitVec.toInt_eq_toNat_cond, BitVec.toNat_ofNat, Nat.mod_eq_of_lt hraw]
  have hiff : 2 * raw < 2 ^ p.dimW ↔ raw < 2 ^ (p.dimW - 1) := by omega
  simp only [hiff, Nat.cast_pow, Nat.cast_ofNat]

end Sys2Proof.Machine

/-!
PROOFS. What a step makes of its pixels: it reads them by their keys below DLEN (R120), its passes over one run are R148's
listing, and from a placed unit's pixels it emits that unit (log 14).
-/
namespace Sys2Proof.Machine

/-- Settles O17: equal keys give equal runs, and a step reads pixels through DETECT alone. -/
theorem onlyKeysBelowDlenMatter : Obligations.OnlyKeysBelowDlenMatter := by
  intro s pix' hmem hkeys t hstep
  have hdetect : s.sp < s.dlen → (s.mapReading id fun _ => pix').detect = s.detect := by
    intro hsp
    refine State.detect_congr hsp hmem hmem rfl rfl (pixelColour_of_key (hkeys s.sp hsp)) fun i hi => ?_
    show pixelKey s.cfg.colorCompare (Memory.read pix' i) = pixelKey s.cfg.colorCompare (Memory.read pix' s.sp) ↔ _
    rw [hkeys i hi, hkeys s.sp hsp]
  have hread := step_mapReading hdetect
  rw [hstep] at hread
  exact hread

/-! The listing of a run (R147, R148). -/

/-- One pass of the listing of 16 or more pixels: the largest power of two that fits (R145). -/
theorem runListing_of_16_le {len : Nat} (h16 : 16 ≤ len) (c : Colour) (fuel : Nat) :
    runListing c (fuel + 1) len =
      .escpow c (BitVec.ofNat 4 (sizeClass len)) :: runListing c fuel (len - 16 <<< sizeClass len) := by
  simp only [runListing, sizeClass, sizeClassFrom, Nat.zero_add, Nat.reduceAdd, Nat.reduceShiftLeft]
  split_ifs <;> rfl

theorem runListing_of_7_le_of_lt_16 {len : Nat} (h7 : 7 ≤ len) (h16 : len < 16) (c : Colour) (fuel : Nat) :
    runListing c (fuel + 1) len = [.esclit c (BitVec.ofNat 4 len)] := by
  simp (disch := omega) only [runListing, if_neg, if_pos]

theorem runListing_of_lt_7 {len : Nat} (h7 : len < 7) (c : Colour) (fuel : Nat) :
    runListing c (fuel + 1) len = shortUnits c len := by
  simp (disch := omega) only [runListing, if_neg]

theorem passUnits_zero (c : Colour) (fuel : Nat) : passUnits c fuel 0 = [] := by
  cases fuel <;> rfl

theorem passUnits_of_pos {len : Nat} (hpos : 1 ≤ len) (c : Colour) (fuel : Nat) :
    passUnits c (fuel + 1) len = classify c len :: passUnits c fuel (len - (classify c len).pixels) :=
  if_neg (Nat.ne_of_gt hpos)

/-- The last passes, below 7 pixels, are short forms of at most 3. -/
theorem passUnits_of_lt_7 {len fuel : Nat} (h7 : len < 7) (hfuel : len ≤ fuel) (c : Colour) :
    passUnits c fuel len = shortUnits c len := by
  induction fuel generalizing len with
  | zero => rw [Nat.le_zero.mp hfuel]; rfl
  | succ fuel ih =>
    match len with
    | 0 => rfl
    | 1 => exact congrArg _ (passUnits_zero c fuel)
    | 2 => exact congrArg _ (passUnits_zero c fuel)
    | n + 3 =>
      rw [passUnits_of_pos (by omega), classify_of_3_le_of_lt_7 (by omega) h7]
      exact congrArg _ (ih (len := n) (by omega) (by omega))

/-- Pass by pass: each pass takes the unit the listing names, and leaves fewer pixels. -/
theorem passUnits_eq_runListing {len fuel : Nat} (hfuel : len ≤ fuel) (c : Colour) :
    passUnits c fuel len = runListing c fuel len := by
  induction fuel generalizing len with
  | zero => rfl
  | succ fuel ih =>
    rcases Nat.lt_or_ge len 7 with h7 | h7
    · rw [passUnits_of_lt_7 h7 hfuel, runListing_of_lt_7 h7]
    · obtain ⟨-, -, -, hpos, -, -⟩ := classify_bounds c len (by omega)
      rw [passUnits_of_pos (by omega)]
      rcases Nat.lt_or_ge len 16 with h16 | h16
      · rw [runListing_of_7_le_of_lt_16 h7 h16, classify_of_7_le_of_lt_16 h7 h16, Instr.pixels, ofNat4_toNat h16,
          Nat.sub_self, passUnits_zero]
      · obtain ⟨h6, -, -⟩ := sizeClass_spec len h16
        rw [ih (by omega), runListing_of_16_le h16, classify_of_16_le h16, Instr.pixels, ofNat4_toNat (by omega)]

/-- Settles O21: as many passes as pixels are enough on both sides. -/
theorem passesGiveTheRunListing : Obligations.PassesGiveTheRunListing :=
  fun c _ => passUnits_eq_runListing (Nat.le_refl _) c

/-! A unit placed as the next to be emitted (log 14): its pixels, and no others, are the run at SP. -/

/-- A unit has a pixel, and CLASSIFY of its pixels is the unit: R74's ranges are where R140 gives each form. -/
theorem classify_colour_pixels {u : Instr} (hu : u.encodable) :
    1 ≤ u.pixels ∧ classify u.colour u.pixels = u := by
  obtain ⟨hunit, hw⟩ := hu
  cases u with
  | short1 c => exact ⟨Nat.le_refl 1, rfl⟩
  | short2 c => exact ⟨Nat.succ_pos 1, rfl⟩
  | short3 c => exact ⟨Nat.succ_pos 2, rfl⟩
  | esclit c v =>
    have h7 : 7 ≤ v.toNat := of_decide_eq_true hw
    exact ⟨Nat.le_trans (Nat.succ_pos 6) h7, classify_eq_esclit h7 c⟩
  | escpow c k =>
    have hpow := Nat.two_pow_pos k.toNat
    rw [escpow_pixels]
    exact ⟨by omega,
      classify_eq_escpow (of_decide_eq_true hw) (Nat.le_refl _) (fun _ => by rw [Nat.pow_succ]; omega) c⟩
  | reset => cases hunit
  | start => cases hunit
  | step => cases hunit
  | finalize => cases hunit
  | detect => cases hunit
  | classify c len => cases hunit
  | emitNibble u => cases hunit

theorem pixelColour_setWidth : ∀ c : Colour, pixelColour (c.setWidth 8) = c := by decide

/-- In the placed state DETECT finds the unit's colour and all its pixels. -/
theorem State.detect_placeUnit {s : State} {u : Instr} (hwf : Memory.wf s.pix) (hpos : 1 ≤ u.pixels) :
    (s.placeUnit u).detect = .ok { colour := u.colour, length := u.pixels } := by
  have hread : ∀ i < u.pixels, Memory.read (s.placeUnit u).pix i = u.colour.setWidth 8 := fun _ hi =>
    Memory.read_fill hwf _ hi
  obtain ⟨len, hd, -, hle, -, hstop⟩ := (s.placeUnit u).detect_spec hpos (Nat.le_refl _)
  have hle' : 0 + len ≤ u.pixels := hle
  have hlen : len = u.pixels := by
    by_contra hne
    have hlt : 0 + len < u.pixels := by omega
    exact hstop hlt (congrArg (pixelKey _) ((hread _ hlt).trans (hread 0 hpos).symm))
  rw [hd, hlen]
  exact congrArg (fun c => Except.ok (Run.mk c u.pixels)) ((congrArg pixelColour (hread 0 hpos)).trans
    (pixelColour_setWidth u.colour))

theorem State.quietNow_placeUnit (s : State) (u : Instr) : (s.placeUnit u).quietNow := by
  cases hhost : s.host with
  | nil => simp [State.quietNow, State.ports, State.placeUnit, hhost, quietHead, Drive.idle]
  | cons d ds => simp [State.quietNow, State.ports, State.placeUnit, hhost, quietHead]

/-- A word that stands for a unit stands for a well-formed one. -/
theorem encodable_of_decodeTableWord {nbits w : Nat} {u : Instr} (h : decodeTableWord nbits w = some u) :
    u.encodable := by
  unfold decodeTableWord at h
  split at h
  · rename_i hdec
    cases h
    exact (encodable_of_decodeUnit hdec).1
  · cases h

/-- Settles O10: the placed unit is the one DETECT and CLASSIFY select. -/
theorem fetchedWordRuns : Obligations.FetchedWordRuns := by
  intro s nbits w u hwf hword
  have hu := encodable_of_decodeTableWord hword
  obtain ⟨hpos, hclass⟩ := classify_colour_pixels hu
  have hplace : s.withFetchWord nbits w = s.placeUnit u := by rw [State.withFetchWord, hword]
  have he : (s.placeUnit u).stepEnabled := ⟨rfl, hpos⟩
  have hd := State.detect_placeUnit hwf hpos
  have hsel := State.selectedUnit_of_detect he hd
  have hstep := step_of_stepEnabled (State.quietNow_placeUnit s u) he hd
  rw [hclass] at hsel hstep
  exact ⟨_, hplace ▸ exec_selected hsel, hplace ▸ hstep⟩

end Sys2Proof.Machine
